-- ==== Sys2Proof/Word.lean ====
section
/-! DEFINITION. The two widths of the machine (00_scope.md section 6: a byte is in 0..255, a word in 0..65535). -/

namespace Sys2Proof

/-- A byte: register, flag byte, memory and port contents (00_scope.md section 6). -/
abbrev Byte := BitVec 8

/-- A word: PC, SP, pairs, addresses (00_scope.md section 6). -/
abbrev Word := BitVec 16

end Sys2Proof
end

