-- ==== Sys2Proof/Config.lean ====
section
/-! DEFINITION. The parameters an instantiation of the block fixes (00_scope.md section 5), the values they have
in `State.reset`, and what an unlisted byte of memory or of a port bank reads as. -/

namespace Sys2Proof.Config

/-- `HLT_MODE` (48_io_control.md R238): what `HLT` does. -/
inductive HltMode where
  | halt
  | nop
  deriving DecidableEq, Repr

/-- The parameters of 00_scope.md section 5 that a step can depend on. They are fixed for the life of the block
(10_state.md R29, 20_memory.md R44). -/
structure Params where
  /-- `ROM_LO`: the first write-protected address (20_memory.md R44). -/
  romLo : Word
  /-- `ROM_HI`: the last write-protected address; the region is empty when `ROM_LO > ROM_HI`. -/
  romHi : Word
  /-- `PORT_LOOPBACK`: bit k is 1 when port k has no external device attached (20_memory.md R51). -/
  portLoopback : BitVec 256
  /-- `HLT_MODE` (92_eei_decisions.md D1). -/
  hltMode : HltMode
  /-- `HAS_CYCLE_COUNTER` (10_state.md R31, 92_eei_decisions.md D6). -/
  hasCycleCounter : Bool
  deriving DecidableEq, Repr

/-- The parameters of the bare core. `PORT_LOOPBACK` all 1, `HLT_MODE = halt` and `HAS_CYCLE_COUNTER = 0` are the
values 00_scope.md section 5 decides for this hardware. DESIGN CHOICE, unsafe: the spec leaves `ROM_LO..ROM_HI`
open; here it is empty, as in the spec's own programs (assumption log 2). -/
def bareCore : Params where
  romLo := 0x0001
  romHi := 0x0000
  portLoopback := BitVec.allOnes 256
  hltMode := .halt
  hasCycleCounter := false

/-- What a byte of memory or of a port bank reads as where the list that holds it names nothing.
DESIGN CHOICE, unsafe: `MEM_INIT`, `IN_INIT`, `OUT_INIT` are open (92_eei_decisions.md D4, D5); 0x00 is "the
usual choice" of 70_reset_and_hazards.md R283 (assumption log 3 and 4). -/
def unlistedByte : Byte := 0x00

end Sys2Proof.Config
end

