-- ==== Sys2Proof/Syntax.lean ====
section
/-! DEFINITION. The instruction set as syntax: operand forms and ONE inductive `Instr`, one constructor for each
pair of a mnemonic and a rule in spec/opcode_table.json. Every field of an opcode byte that distinguishes two rows
of the table is an argument of the row's constructor. -/

namespace Sys2Proof

/-- The seven registers a 3-bit code can name (10_state.md R12: code 6 is M, not a register). -/
inductive Reg8 where
  | b | c | d | e | h | l | a
  deriving DecidableEq, Repr

/-- The operand a 3-bit code selects: a register or M, the byte at HL (10_state.md R12, 42_arithmetic.md R137). -/
inductive Operand8 where
  | reg (r : Reg8)
  | mem
  deriving DecidableEq, Repr

/-- The three register pairs (10_state.md R13), the operands of `PUSH` and `POP` but for PSW. -/
inductive Pair where
  | bc | de | hl
  deriving DecidableEq, Repr

/-- What a 2-bit pair code selects in `LXI`, `INX`, `DCX`, `DAD` (10_state.md R14): a pair, or SP for code 3. -/
inductive PairSp where
  | pair (p : Pair)
  | sp
  deriving DecidableEq, Repr

/-- The two pairs `LDAX` and `STAX` can name (10_state.md R14, 40_data_transfer.md R110, R111). -/
inductive PairIdx where
  | bc | de
  deriving DecidableEq, Repr

/-- The eight conditions of 45_branch.md R180, in the order of their codes. -/
inductive Cond where
  | nz | z | nc | c | po | pe | p | m
  deriving DecidableEq, Repr

/-- The instructions. Each docstring gives the assembler form, the rule and the file of spec/. -/
inductive Instr where
  /-- `MOV d,s`: register to register (40_data_transfer.md R100). -/
  | movRR (dst : Reg8) (src : Reg8)
  /-- `MOV d,M`: load from memory at HL (40_data_transfer.md R101). -/
  | movRM (dst : Reg8)
  /-- `MOV M,s`: store to memory at HL (40_data_transfer.md R102). -/
  | movMR (src : Reg8)
  /-- `MVI d,d8` (40_data_transfer.md R103). -/
  | mviR (dst : Reg8) (v : Byte)
  /-- `MVI M,d8` (40_data_transfer.md R104). -/
  | mviM (v : Byte)
  /-- `LXI rp,d16` (40_data_transfer.md R105). -/
  | lxi (p : PairSp) (v : Word)
  /-- `LDA a16` (40_data_transfer.md R106). -/
  | lda (adr : Word)
  /-- `STA a16` (40_data_transfer.md R107). -/
  | sta (adr : Word)
  /-- `LHLD a16` (40_data_transfer.md R108). -/
  | lhld (adr : Word)
  /-- `SHLD a16` (40_data_transfer.md R109). -/
  | shld (adr : Word)
  /-- `LDAX rp`, rp in {BC, DE} (40_data_transfer.md R110). -/
  | ldax (p : PairIdx)
  /-- `STAX rp`, rp in {BC, DE} (40_data_transfer.md R111). -/
  | stax (p : PairIdx)
  /-- `XCHG` (40_data_transfer.md R112). -/
  | xchg
  /-- `INR d` (41_incdec.md R120). -/
  | inrR (dst : Reg8)
  /-- `INR M` (41_incdec.md R121). -/
  | inrM
  /-- `DCR d` (41_incdec.md R122). -/
  | dcrR (dst : Reg8)
  /-- `DCR M` (41_incdec.md R123). -/
  | dcrM
  /-- `INX rp` (41_incdec.md R124). -/
  | inx (p : PairSp)
  /-- `DCX rp` (41_incdec.md R125). -/
  | dcx (p : PairSp)
  /-- `DAD rp` (41_incdec.md R126). -/
  | dad (p : PairSp)
  /-- `ADD s`, s a register or M (42_arithmetic.md R138). -/
  | add (o : Operand8)
  /-- `ADC s`, s a register or M (42_arithmetic.md R139). -/
  | adc (o : Operand8)
  /-- `SUB s`, s a register or M (42_arithmetic.md R140). -/
  | sub (o : Operand8)
  /-- `SBB s`, s a register or M (42_arithmetic.md R141). -/
  | sbb (o : Operand8)
  /-- `ADI d8` (42_arithmetic.md R142). -/
  | adi (v : Byte)
  /-- `ACI d8` (42_arithmetic.md R143). -/
  | aci (v : Byte)
  /-- `SUI d8` (42_arithmetic.md R144). -/
  | sui (v : Byte)
  /-- `SBI d8` (42_arithmetic.md R145). -/
  | sbi (v : Byte)
  /-- `ANA s`, s a register or M (43_logical.md R150). -/
  | ana (o : Operand8)
  /-- `XRA s`, s a register or M (43_logical.md R151). -/
  | xra (o : Operand8)
  /-- `ORA s`, s a register or M (43_logical.md R152). -/
  | ora (o : Operand8)
  /-- `CMP s`, s a register or M (43_logical.md R153). -/
  | cmp (o : Operand8)
  /-- `ANI d8` (43_logical.md R154). -/
  | ani (v : Byte)
  /-- `XRI d8` (43_logical.md R155). -/
  | xri (v : Byte)
  /-- `ORI d8` (43_logical.md R156). -/
  | ori (v : Byte)
  /-- `CPI d8` (43_logical.md R157). -/
  | cpi (v : Byte)
  /-- `CMA` (43_logical.md R158). -/
  | cma
  /-- `STC` (43_logical.md R159). -/
  | stc
  /-- `CMC` (43_logical.md R160). -/
  | cmc
  /-- `RLC` (44_rotate_daa.md R170). -/
  | rlc
  /-- `RRC` (44_rotate_daa.md R171). -/
  | rrc
  /-- `RAL` (44_rotate_daa.md R172). -/
  | ral
  /-- `RAR` (44_rotate_daa.md R173). -/
  | rar
  /-- `DAA` (44_rotate_daa.md R174). -/
  | daa
  /-- `JMP a16` (45_branch.md R181). -/
  | jmp (adr : Word)
  /-- `JNZ a16` (45_branch.md R182). -/
  | jnz (adr : Word)
  /-- `JZ a16` (45_branch.md R183). -/
  | jz (adr : Word)
  /-- `JNC a16` (45_branch.md R184). -/
  | jnc (adr : Word)
  /-- `JC a16` (45_branch.md R185). -/
  | jc (adr : Word)
  /-- `JPO a16` (45_branch.md R186). -/
  | jpo (adr : Word)
  /-- `JPE a16` (45_branch.md R187). -/
  | jpe (adr : Word)
  /-- `JP a16` (45_branch.md R188). -/
  | jp (adr : Word)
  /-- `JM a16` (45_branch.md R189). -/
  | jm (adr : Word)
  /-- `PCHL` (45_branch.md R190). -/
  | pchl
  /-- `CALL a16` (46_call_return_rst.md R195). -/
  | call (adr : Word)
  /-- `CNZ a16` (46_call_return_rst.md R196). -/
  | cnz (adr : Word)
  /-- `CZ a16` (46_call_return_rst.md R197). -/
  | cz (adr : Word)
  /-- `CNC a16` (46_call_return_rst.md R198). -/
  | cnc (adr : Word)
  /-- `CC a16` (46_call_return_rst.md R199). -/
  | cc (adr : Word)
  /-- `CPO a16` (46_call_return_rst.md R200). -/
  | cpo (adr : Word)
  /-- `CPE a16` (46_call_return_rst.md R201). -/
  | cpe (adr : Word)
  /-- `CP a16` (46_call_return_rst.md R202). -/
  | cp (adr : Word)
  /-- `CM a16` (46_call_return_rst.md R203). -/
  | cm (adr : Word)
  /-- `RET` (46_call_return_rst.md R204). -/
  | ret
  /-- `RNZ` (46_call_return_rst.md R205). -/
  | rnz
  /-- `RZ` (46_call_return_rst.md R206). -/
  | rz
  /-- `RNC` (46_call_return_rst.md R207). -/
  | rnc
  /-- `RC` (46_call_return_rst.md R208). -/
  | rc
  /-- `RPO` (46_call_return_rst.md R209). -/
  | rpo
  /-- `RPE` (46_call_return_rst.md R210). -/
  | rpe
  /-- `RP` (46_call_return_rst.md R211). -/
  | rp
  /-- `RM` (46_call_return_rst.md R212). -/
  | rm
  /-- `RST n` (46_call_return_rst.md R216). -/
  | rst (n : BitVec 3)
  /-- `PUSH rp`, rp in {B, D, H} (47_stack.md R220). -/
  | push (p : Pair)
  /-- `PUSH PSW` (47_stack.md R222). -/
  | pushPsw
  /-- `POP rp`, rp in {B, D, H} (47_stack.md R221). -/
  | pop (p : Pair)
  /-- `POP PSW` (47_stack.md R224). -/
  | popPsw
  /-- `XTHL` (47_stack.md R225). -/
  | xthl
  /-- `SPHL` (47_stack.md R226). -/
  | sphl
  /-- `IN p8` (48_io_control.md R235). -/
  | inp (n : Byte)
  /-- `OUT p8` (48_io_control.md R236). -/
  | out (n : Byte)
  /-- `NOP` (48_io_control.md R237). -/
  | nop
  /-- `HLT` (48_io_control.md R238). -/
  | hlt
  /-- `DI` (48_io_control.md R239). -/
  | di
  /-- `EI` (48_io_control.md R240). -/
  | ei
  /-- `*NOP`: opcode `00nnn000`, nnn = 1 to 7 (49_undocumented.md R245). -/
  | undocNop (n : BitVec 3)
  /-- `*JMP a16`: opcode 0xCB (49_undocumented.md R246). -/
  | undocJmp (adr : Word)
  /-- `*RET`: opcode 0xD9 (49_undocumented.md R247). -/
  | undocRet
  /-- `*CALL a16`: opcode `11xx1101`, xx = 1, 2, 3 (49_undocumented.md R248). -/
  | undocCall (x : BitVec 2) (adr : Word)
  deriving DecidableEq, Repr

end Sys2Proof
end

