-- ==== Sys2Proof/WellFormed.lean ====
section
/-! DEFINITION. Which instruction terms some opcode value encodes. The operand types already shut out every
other ill-formed term (a pair `LDAX` cannot name, M as both operands of `MOV`). -/

namespace Sys2Proof

/-- `*NOP` is `00nnn000` with nnn = 1 to 7 (49_undocumented.md R245; nnn = 0 is `NOP`) and `*CALL` is `11xx1101`
with xx = 1, 2, 3 (R248; xx = 0 is `CALL`). Every other term is well formed. -/
def Instr.wellFormed : Instr → Bool
  | .undocNop n => n != 0
  | .undocCall x _ => x != 0
  | _ => true

end Sys2Proof
end

