-- ==== Sys2Proof/Decode.lean ====
section
/-! DEFINITION. Decoding, total on any bytes: the dispatch table of 30_encoding.md (R77 to R83), the decoder over a
list of bytes that reads through it, and the encoder written from the same tables. -/

namespace Sys2Proof

/-! ## Fields of words and of the opcode byte -/

/-- `{hi, lo} = hi * 256 + lo` (00_scope.md section 6). -/
def wordOf (hi lo : Byte) : Word := hi ++ lo

/-- `v[15:8]`. -/
def hiByte (v : Word) : Byte := v.extractLsb' 8 8

/-- `v[7:0]`. -/
def loByte (v : Word) : Byte := v.extractLsb' 0 8

/-- `grp = op[7:6]` (30_encoding.md R71). -/
def opGrp (op : Byte) : BitVec 2 := op.extractLsb' 6 2

/-- `op[5:3]`: the fields `ddd`, `alu`, `ccc`, `nnn` (30_encoding.md R71). -/
def opMid (op : Byte) : BitVec 3 := op.extractLsb' 3 3

/-- `sss = op[2:0]` (30_encoding.md R71). -/
def opLow (op : Byte) : BitVec 3 := op.extractLsb' 0 3

/-- `rp = op[5:4]` (30_encoding.md R71). -/
def opPair (op : Byte) : BitVec 2 := op.extractLsb' 4 2

/-- Selection of one of eight entries by a 3-bit field: a row of a table of 30_encoding.md. -/
def sel8 {α : Type} (x : BitVec 3) (e0 e1 e2 e3 e4 e5 e6 e7 : α) : α :=
  match x.getLsbD 2, x.getLsbD 1, x.getLsbD 0 with
  | false, false, false => e0
  | false, false, true => e1
  | false, true, false => e2
  | false, true, true => e3
  | true, false, false => e4
  | true, false, true => e5
  | true, true, false => e6
  | true, true, true => e7

/-- Selection of one of four entries by a 2-bit field. -/
def sel4 {α : Type} (x : BitVec 2) (e0 e1 e2 e3 : α) : α :=
  match x.getLsbD 1, x.getLsbD 0 with
  | false, false => e0
  | false, true => e1
  | true, false => e2
  | true, true => e3

/-- The operand a 3-bit code selects (10_state.md R12): 0 = B, 1 = C, 2 = D, 3 = E, 4 = H, 5 = L, 6 = M, 7 = A. -/
def operandOfCode (x : BitVec 3) : Operand8 :=
  sel8 x (.reg .b) (.reg .c) (.reg .d) (.reg .e) (.reg .h) (.reg .l) .mem (.reg .a)

/-- The pair a 2-bit code selects (10_state.md R14): 0 = BC, 1 = DE, 2 = HL, 3 = SP. -/
def pairSpOfCode (x : BitVec 2) : PairSp :=
  sel4 x (.pair .bc) (.pair .de) (.pair .hl) .sp

/-! ## The dispatch table -/

/-- An entry of the dispatch table: the instruction, and the operand bytes it still takes. Formats `F1`, `F2`, `F3` of
30_encoding.md R70. -/
inductive Handler where
  | f1 (i : Instr)
  | f2 (k : Byte → Instr)
  | f3 (k : Word → Instr)

/-- Group 0, opcodes 0x00 to 0x3F (30_encoding.md R78): the column `op[2:0]`, then the field `op[5:3]`. -/
def group0 (op : Byte) : Handler :=
  sel8 (opLow op)
    (if opMid op = 0 then .f1 .nop else .f1 (.undocNop (opMid op)))
    (if op.getLsbD 3 then .f1 (.dad (pairSpOfCode (opPair op))) else .f3 (.lxi (pairSpOfCode (opPair op))))
    (sel8 (opMid op) (.f1 (.stax .bc)) (.f1 (.ldax .bc)) (.f1 (.stax .de)) (.f1 (.ldax .de))
      (.f3 .shld) (.f3 .lhld) (.f3 .sta) (.f3 .lda))
    (if op.getLsbD 3 then .f1 (.dcx (pairSpOfCode (opPair op))) else .f1 (.inx (pairSpOfCode (opPair op))))
    (match operandOfCode (opMid op) with
      | .reg dst => .f1 (.inrR dst)
      | .mem => .f1 .inrM)
    (match operandOfCode (opMid op) with
      | .reg dst => .f1 (.dcrR dst)
      | .mem => .f1 .dcrM)
    (match operandOfCode (opMid op) with
      | .reg dst => .f2 (.mviR dst)
      | .mem => .f2 .mviM)
    (sel8 (opMid op) (.f1 .rlc) (.f1 .rrc) (.f1 .ral) (.f1 .rar) (.f1 .daa) (.f1 .cma) (.f1 .stc) (.f1 .cmc))

/-- Group 1, opcodes 0x40 to 0x7F (30_encoding.md R79): `01dddsss` is `MOV`, and the position of `MOV M,M` is `HLT`. -/
def group1 (op : Byte) : Handler :=
  match operandOfCode (opMid op), operandOfCode (opLow op) with
  | .reg dst, .reg src => .f1 (.movRR dst src)
  | .reg dst, .mem => .f1 (.movRM dst)
  | .mem, .reg src => .f1 (.movMR src)
  | .mem, .mem => .f1 .hlt

/-- Group 2, opcodes 0x80 to 0xBF (30_encoding.md R80): `10aaasss`, ALU operation `aaa` on operand `sss`. -/
def group2 (op : Byte) : Handler :=
  .f1 (sel8 (opMid op) Instr.add .adc .sub .sbb .ana .xra .ora .cmp (operandOfCode (opLow op)))

/-- Group 3, opcodes 0xC0 to 0xFF (30_encoding.md R81): the column `op[2:0]`, then the row `op[5:3]`. -/
def group3 (op : Byte) : Handler :=
  sel8 (opLow op)
    (.f1 (sel8 (opMid op) .rnz .rz .rnc .rc .rpo .rpe .rp .rm))
    (.f1 (sel8 (opMid op) (.pop .bc) .ret (.pop .de) .undocRet (.pop .hl) .pchl .popPsw .sphl))
    (.f3 (sel8 (opMid op) .jnz .jz .jnc .jc .jpo .jpe .jp .jm))
    (sel8 (opMid op) (.f3 .jmp) (.f3 .undocJmp) (.f2 .out) (.f2 .inp) (.f1 .xthl) (.f1 .xchg) (.f1 .di) (.f1 .ei))
    (.f3 (sel8 (opMid op) .cnz .cz .cnc .cc .cpo .cpe .cp .cm))
    (sel8 (opMid op) (.f1 (.push .bc)) (.f3 .call) (.f1 (.push .de)) (.f3 (.undocCall (opPair op)))
      (.f1 (.push .hl)) (.f3 (.undocCall (opPair op))) (.f1 .pushPsw) (.f3 (.undocCall (opPair op))))
    (.f2 (sel8 (opMid op) .adi .aci .sui .sbi .ani .xri .ori .cpi))
    (.f1 (.rst (opMid op)))

/-- The dispatch table, looked up by the opcode byte (30_encoding.md R75, R77). `none` would be the absent entry of
R75; every opcode value has an entry (R83), so no opcode gives it. -/
def dispatch (op : Byte) : Option Handler :=
  sel4 (opGrp op) (some (group0 op)) (some (group1 op)) (some (group2 op)) (some (group3 op))

/-! ## The decoder -/

/-- Why a list of bytes is not decoded. -/
inductive DecodeReject where
  /-- There is no opcode byte. -/
  | noOpcode
  /-- The opcode byte has no dispatch-table entry (30_encoding.md R75; unreachable by R77). -/
  | unmappedOpcode (op : Byte)
  /-- The list ends before the operand bytes this opcode takes (30_encoding.md R72). -/
  | missingOperand (op : Byte)
  deriving DecidableEq, Repr

/-- The instruction at the front of a list of bytes in ascending addresses, and the bytes after it. A 16-bit operand
has its low byte first (30_encoding.md R70, R74). -/
def decode : List Byte → Except DecodeReject (Instr × List Byte)
  | [] => .error .noOpcode
  | op :: rest =>
    match dispatch op, rest with
    | none, _ => .error (.unmappedOpcode op)
    | some (.f1 i), after => .ok (i, after)
    | some (.f2 k), v :: after => .ok (k v, after)
    | some (.f3 k), lo :: hi :: after => .ok (k (wordOf hi lo), after)
    | some (.f2 _), [] => .error (.missingOperand op)
    | some (.f3 _), _ => .error (.missingOperand op)

/-- The first three bytes (the longest instruction, 30_encoding.md R70) of an instruction given as a number whose bit 0
is the least significant bit of its first byte; bits from `nbits` up are 0. -/
def tableBytes (nbits w : Nat) : List Byte :=
  let v := w % 2 ^ nbits
  [BitVec.ofNat 8 v, BitVec.ofNat 8 (v / 2 ^ 8), BitVec.ofNat 8 (v / 2 ^ 16)]

/-- The instruction the decoder reads from a word numbered as spec/opcode_table.json numbers its rows. -/
def decodeTableWord (nbits w : Nat) : Option Instr :=
  match decode (tableBytes nbits w) with
  | .ok (i, _) => some i
  | .error _ => none

/-! ## The encoder -/

/-- The register's 3-bit code (10_state.md R12). -/
def codeOfReg : Reg8 → BitVec 3
  | .b => 0
  | .c => 1
  | .d => 2
  | .e => 3
  | .h => 4
  | .l => 5
  | .a => 7

/-- The operand's 3-bit code (10_state.md R12). -/
def codeOfOperand : Operand8 → BitVec 3
  | .reg r => codeOfReg r
  | .mem => 6

/-- The pair's 2-bit code (10_state.md R14). -/
def codeOfPair : Pair → BitVec 2
  | .bc => 0
  | .de => 1
  | .hl => 2

/-- The 2-bit code of a pair or of SP (10_state.md R14). -/
def codeOfPairSp : PairSp → BitVec 2
  | .pair p => codeOfPair p
  | .sp => 3

/-- The bit `p` of `LDAX` and `STAX` (40_data_transfer.md R110, R111). -/
def codeOfPairIdx : PairIdx → BitVec 1
  | .bc => 0
  | .de => 1

/-- An instruction of format `F2`. -/
def bytesF2 (op v : Byte) : List Byte := [op, v]

/-- An instruction of format `F3`: the low byte comes first (30_encoding.md R74). -/
def bytesF3 (op : Byte) (v : Word) : List Byte := [op, loByte v, hiByte v]

/-- The opcode `g x y` with `g = op[7:6]`, `x = op[5:3]`, `y = op[2:0]`. -/
def opOctal (g : BitVec 2) (x y : BitVec 3) : Byte := g ++ x ++ y

/-- The opcode `g p q` with `g = op[7:6]`, `p = op[5:4]`, `q = op[3:0]`. -/
def opPaired (g p : BitVec 2) (q : BitVec 4) : Byte := g ++ p ++ q

/-- The bytes of an instruction, from the "Encoding:" line of its rule (files 40 to 49). -/
def encode : Instr → List Byte
  | .movRR dst src => [opOctal 1 (codeOfReg dst) (codeOfReg src)]
  | .movRM dst => [opOctal 1 (codeOfReg dst) 6]
  | .movMR src => [opOctal 1 6 (codeOfReg src)]
  | .mviR dst v => bytesF2 (opOctal 0 (codeOfReg dst) 6) v
  | .mviM v => bytesF2 0x36 v
  | .lxi p v => bytesF3 (opPaired 0 (codeOfPairSp p) 1) v
  | .lda adr => bytesF3 0x3A adr
  | .sta adr => bytesF3 0x32 adr
  | .lhld adr => bytesF3 0x2A adr
  | .shld adr => bytesF3 0x22 adr
  | .ldax p => [opPaired 0 (0#1 ++ codeOfPairIdx p) 10]
  | .stax p => [opPaired 0 (0#1 ++ codeOfPairIdx p) 2]
  | .xchg => [0xEB]
  | .inrR dst => [opOctal 0 (codeOfReg dst) 4]
  | .inrM => [0x34]
  | .dcrR dst => [opOctal 0 (codeOfReg dst) 5]
  | .dcrM => [0x35]
  | .inx p => [opPaired 0 (codeOfPairSp p) 3]
  | .dcx p => [opPaired 0 (codeOfPairSp p) 11]
  | .dad p => [opPaired 0 (codeOfPairSp p) 9]
  | .add o => [opOctal 2 0 (codeOfOperand o)]
  | .adc o => [opOctal 2 1 (codeOfOperand o)]
  | .sub o => [opOctal 2 2 (codeOfOperand o)]
  | .sbb o => [opOctal 2 3 (codeOfOperand o)]
  | .adi v => bytesF2 0xC6 v
  | .aci v => bytesF2 0xCE v
  | .sui v => bytesF2 0xD6 v
  | .sbi v => bytesF2 0xDE v
  | .ana o => [opOctal 2 4 (codeOfOperand o)]
  | .xra o => [opOctal 2 5 (codeOfOperand o)]
  | .ora o => [opOctal 2 6 (codeOfOperand o)]
  | .cmp o => [opOctal 2 7 (codeOfOperand o)]
  | .ani v => bytesF2 0xE6 v
  | .xri v => bytesF2 0xEE v
  | .ori v => bytesF2 0xF6 v
  | .cpi v => bytesF2 0xFE v
  | .cma => [0x2F]
  | .stc => [0x37]
  | .cmc => [0x3F]
  | .rlc => [0x07]
  | .rrc => [0x0F]
  | .ral => [0x17]
  | .rar => [0x1F]
  | .daa => [0x27]
  | .jmp adr => bytesF3 0xC3 adr
  | .jnz adr => bytesF3 0xC2 adr
  | .jz adr => bytesF3 0xCA adr
  | .jnc adr => bytesF3 0xD2 adr
  | .jc adr => bytesF3 0xDA adr
  | .jpo adr => bytesF3 0xE2 adr
  | .jpe adr => bytesF3 0xEA adr
  | .jp adr => bytesF3 0xF2 adr
  | .jm adr => bytesF3 0xFA adr
  | .pchl => [0xE9]
  | .call adr => bytesF3 0xCD adr
  | .cnz adr => bytesF3 0xC4 adr
  | .cz adr => bytesF3 0xCC adr
  | .cnc adr => bytesF3 0xD4 adr
  | .cc adr => bytesF3 0xDC adr
  | .cpo adr => bytesF3 0xE4 adr
  | .cpe adr => bytesF3 0xEC adr
  | .cp adr => bytesF3 0xF4 adr
  | .cm adr => bytesF3 0xFC adr
  | .ret => [0xC9]
  | .rnz => [0xC0]
  | .rz => [0xC8]
  | .rnc => [0xD0]
  | .rc => [0xD8]
  | .rpo => [0xE0]
  | .rpe => [0xE8]
  | .rp => [0xF0]
  | .rm => [0xF8]
  | .rst n => [opOctal 3 n 7]
  | .push p => [opPaired 3 (codeOfPair p) 5]
  | .pushPsw => [0xF5]
  | .pop p => [opPaired 3 (codeOfPair p) 1]
  | .popPsw => [0xF1]
  | .xthl => [0xE3]
  | .sphl => [0xF9]
  | .inp n => bytesF2 0xDB n
  | .out n => bytesF2 0xD3 n
  | .nop => [0x00]
  | .hlt => [0x76]
  | .di => [0xF3]
  | .ei => [0xFB]
  | .undocNop n => [opOctal 0 n 0]
  | .undocJmp adr => bytesF3 0xCB adr
  | .undocRet => [0xD9]
  | .undocCall x adr => bytesF3 (opPaired 3 x 13) adr

end Sys2Proof
end

