-- ==== Sys2Proof/Machine/State.lean ====
section
/-! DEFINITION. The state of the machine as plain data, its memory and port banks, the outcomes of a step, and the state
after creation and reset (10_state.md, 20_memory.md, 70_reset_and_hazards.md). -/

namespace Sys2Proof.Machine

/-- The seven 8-bit registers (10_state.md R10). The pairs are projections of them (R13). -/
structure Regs where
  b : Byte
  c : Byte
  d : Byte
  e : Byte
  h : Byte
  l : Byte
  a : Byte
  deriving DecidableEq, Repr

/-- The five condition flags (10_state.md R20). The PSW byte is computed from them, not stored. -/
structure Flags where
  /-- S, sign. -/
  s : Bool
  /-- Z, zero. -/
  z : Bool
  /-- AC, auxiliary carry. -/
  ac : Bool
  /-- P, parity. -/
  p : Bool
  /-- CY, carry. -/
  cy : Bool
  deriving DecidableEq, Repr

/-- Cells from key `lo` up to below `bound` in canonical form: keys strictly rising, and no cell equal to what an
unlisted key reads as, so that equal contents are equal lists. -/
def cellsWf (bound : Nat) : Nat → List Host.Cell → Bool
  | _, [] => true
  | lo, (k, v) :: rest =>
    decide (lo ≤ k) && decide (k < bound) && (v != Config.unlistedByte) && cellsWf bound (k + 1) rest

/-- Main memory, 65536 bytes keyed by address (20_memory.md R40). -/
abbrev Memory := List Host.Cell

/-- One port array, 256 bytes keyed by port number (20_memory.md R49). -/
abbrev PortBank := List Host.Cell

/-- The canonical form of a memory. -/
def Memory.wf (m : Memory) : Bool := cellsWf 65536 0 m

/-- The canonical form of a port bank. -/
def PortBank.wf (m : PortBank) : Bool := cellsWf 256 0 m

/-- The state of the block (10_state.md "State at a glance"), with the parameters it was instantiated with. -/
structure State where
  /-- A, B, C, D, E, H, L (R10). -/
  regs : Regs
  /-- PC (R15). -/
  pc : Word
  /-- SP (R17). -/
  sp : Word
  /-- S, Z, AC, P, CY (R20). -/
  flags : Flags
  /-- INTE (R28). -/
  inte : Bool
  /-- The halt latch, in use under `HLT_MODE = halt` (R30). -/
  halted : Bool
  /-- The optional cycle counter, in use under `HAS_CYCLE_COUNTER = 1` (R31). -/
  cyc : Nat
  /-- `mem` (20_memory.md R40). -/
  mem : Memory
  /-- `in` (20_memory.md R49). -/
  inPorts : PortBank
  /-- `out` (20_memory.md R49). -/
  outPorts : PortBank
  /-- The block's parameters (00_scope.md section 5). DESIGN CHOICE, safe: they stand here so that a step, a function of
  the state alone, is modelled for every instantiation; nothing changes them (assumption log 1). -/
  params : Config.Params
  deriving DecidableEq, Repr

/-- What ends a step abnormally. -/
inductive Fault where
  /-- `UnsupportedOpcode{pc, opcode}` (60_exceptions.md R260): raised by the fetch when the dispatch table has no entry for
  the opcode byte. `pc` is the address of that byte, and the state stays as it was before the step (R261). Safe: it is
  the spec's own condition, and no opcode raises it (R262). -/
  | unsupportedOpcode (pc : Word) (opcode : Byte)
  deriving DecidableEq, Repr

/-- Why an instruction is not given a meaning. -/
inductive Refusal where
  /-- Raised by an arm of `exec` whose instruction has no meaning yet. Safe. No arm of this model raises it. -/
  | notModelled (mnemonic : String)
  deriving DecidableEq, Repr

/-- The outcome of a step or of an instruction. -/
abbrev Result := Host.Outcome State Fault Refusal

/-- All registers zero (10_state.md R32). -/
def Regs.zero : Regs := ⟨0, 0, 0, 0, 0, 0, 0⟩

/-- All flags zero (10_state.md R32). -/
def Flags.zero : Flags := ⟨false, false, false, false, false⟩

/-- A block that has just been created (70_reset_and_hazards.md R283): the reset state of R32 and R33 with the given
parameters, `MEM_INIT`, `IN_INIT` and `OUT_INIT`. -/
def State.created (params : Config.Params) (memInit : Memory) (inInit outInit : PortBank) : State where
  regs := Regs.zero
  pc := 0x0000
  sp := 0x0000
  flags := Flags.zero
  inte := false
  halted := false
  cyc := 0
  mem := memInit
  inPorts := inInit
  outPorts := outInit
  params := params

/-- The bare core right after creation and reset, with `MEM_INIT`, `IN_INIT`, `OUT_INIT` all zero (assumption log 2, 3,
4 for the values the spec leaves open). -/
def State.reset : State := State.created Config.bareCore [] [] []

end Sys2Proof.Machine
end

