-- ==== Sys2Proof/Machine/Ops.lean ====
section
/-! DEFINITION. The named operations over registers, memory, ports, the stack and the instruction stream: the primitives
of 00_scope.md section 6. -/

namespace Sys2Proof.Machine

/-! ## Byte cells -/

/-- The byte at a key. -/
def cellRead : List Host.Cell → Nat → Byte
  | [], _ => Config.unlistedByte
  | (k', v) :: rest, k => if k' = k then v else cellRead rest k

/-- Storing a byte at a key. Storing what an unlisted key reads as removes the cell. -/
def cellWrite : List Host.Cell → Nat → Byte → List Host.Cell
  | [], k, v => if v = Config.unlistedByte then [] else [(k, v)]
  | (k', v') :: rest, k, v =>
    if k < k' then
      if v = Config.unlistedByte then (k', v') :: rest else (k, v) :: (k', v') :: rest
    else if k = k' then
      if v = Config.unlistedByte then rest else (k, v) :: rest
    else (k', v') :: cellWrite rest k v

/-! ## Registers -/

/-- `r8[c]` read (10_state.md R12). -/
def regGet (r : Reg8) (s : State) : Byte :=
  match r with
  | .b => s.regs.b
  | .c => s.regs.c
  | .d => s.regs.d
  | .e => s.regs.e
  | .h => s.regs.h
  | .l => s.regs.l
  | .a => s.regs.a

/-- The register file with one register replaced. -/
def regsWith (r : Reg8) (v : Byte) (f : Regs) : Regs :=
  match r with
  | .b => { f with b := v }
  | .c => { f with c := v }
  | .d => { f with d := v }
  | .e => { f with e := v }
  | .h => { f with h := v }
  | .l => { f with l := v }
  | .a => { f with a := v }

/-- `r8[c] <- v` (10_state.md R12). -/
def regSet (r : Reg8) (v : Byte) (s : State) : State :=
  { s with regs := regsWith r v s.regs }

/-- The first-named register of a pair, its high byte (10_state.md R13). -/
def pairHi : Pair → Reg8
  | .bc => .b
  | .de => .d
  | .hl => .h

/-- The second-named register of a pair, its low byte (10_state.md R13). -/
def pairLo : Pair → Reg8
  | .bc => .c
  | .de => .e
  | .hl => .l

/-- Reading a pair, "high byte first" (10_state.md R13). -/
def pairGet (p : Pair) (s : State) : Word :=
  wordOf (regGet (pairHi p) s) (regGet (pairLo p) s)

/-- Writing a pair (10_state.md R13). -/
def pairSet (p : Pair) (v : Word) (s : State) : State :=
  { s with regs := regsWith (pairLo p) (loByte v) (regsWith (pairHi p) (hiByte v) s.regs) }

/-- `HL`, the address of M (10_state.md R12). -/
def hl (s : State) : Word := pairGet .hl s

/-- `SP <- v` (10_state.md R17). -/
def spSet (v : Word) (s : State) : State := { s with sp := v }

/-- `pc <- target` (00_scope.md section 6). -/
def pcSet (v : Word) (s : State) : State := { s with pc := v }

/-- `rp[p]` read (10_state.md R14). -/
def pairSpGet (p : PairSp) (s : State) : Word :=
  match p with
  | .pair q => pairGet q s
  | .sp => s.sp

/-- `rp[p] <- v` (10_state.md R14). -/
def pairSpSet (p : PairSp) (v : Word) (s : State) : State :=
  match p with
  | .pair q => pairSet q v s
  | .sp => spSet v s

/-- The address held by the pair that `LDAX` or `STAX` names (40_data_transfer.md R110, R111). -/
def pairIdxGet (p : PairIdx) (s : State) : Word :=
  match p with
  | .bc => pairGet .bc s
  | .de => pairGet .de s

/-- All five flags replaced. -/
def flagsSet (f : Flags) (s : State) : State := { s with flags := f }

/-- `CY <- v`, the other flags kept (10_state.md R22). -/
def cySet (v : Bool) (s : State) : State := { s with flags := { s.flags with cy := v } }

/-- `INTE <- v` (10_state.md R28). -/
def inteSet (v : Bool) (s : State) : State := { s with inte := v }

/-! ## Memory -/

/-- Whether an address is write protected: inside the inclusive range `ROM_LO..ROM_HI` (20_memory.md R44). -/
def isProtected (p : Config.Params) (adr : Word) : Bool :=
  decide (p.romLo ≤ adr) && decide (adr ≤ p.romHi)

/-- `MemRead(addr, 1)` (20_memory.md R41). An address is a 16-bit word, so it is already reduced mod 65536 (R43). -/
def memRead (adr : Word) (s : State) : Byte := cellRead s.mem adr.toNat

/-- `MemWrite(addr, 1, v)` (20_memory.md R42): dropped silently at a write-protected address. -/
def memWrite (adr : Word) (v : Byte) (s : State) : State :=
  { s with mem := if isProtected s.params adr then s.mem else cellWrite s.mem adr.toNat v }

/-- `MemRead(addr, 2)`, low byte at the lower address (20_memory.md R47). -/
def memRead16 (adr : Word) (s : State) : Word := wordOf (memRead (adr + 1) s) (memRead adr s)

/-- `MemWrite(addr, 2, v)`, low byte at the lower address (20_memory.md R47). -/
def memWrite16 (adr : Word) (v : Word) (s : State) : State :=
  memWrite (adr + 1) (hiByte v) (memWrite adr (loByte v) s)

/-- `load(bytes, origin)` on memory (20_memory.md R46): consecutive addresses mod 65536, bypassing write protection. -/
def loadBytes : List Byte → Word → Memory → Memory
  | [], _, m => m
  | v :: rest, adr, m => loadBytes rest (adr + 1) (cellWrite m adr.toNat v)

/-! ## Ports -/

/-- `PORT_LOOPBACK[n] = 1` (20_memory.md R51). -/
def isLoopback (p : Config.Params) (n : Byte) : Bool := p.portLoopback.getLsbD n.toNat

/-- `PortRead(n)` (20_memory.md R50). -/
def portRead (n : Byte) (s : State) : Byte := cellRead s.inPorts n.toNat

/-- What output port `n` holds: the host's accessor `out[n]` (70_reset_and_hazards.md R284). -/
def outPortRead (n : Byte) (s : State) : Byte := cellRead s.outPorts n.toNat

/-- `PortWrite(n, v)` (20_memory.md R51): a loopback port also latches the byte into the input bank. -/
def portWrite (n : Byte) (v : Byte) (s : State) : State :=
  { s with
    outPorts := cellWrite s.outPorts n.toNat v
    inPorts := if isLoopback s.params n then cellWrite s.inPorts n.toNat v else s.inPorts }

/-! ## Stack -/

/-- `Push16(v)` (10_state.md R18): high byte at SP-1, low byte at SP-2, then SP-2. -/
def push16 (v : Word) (s : State) : State :=
  spSet (s.sp - 2) (memWrite (s.sp - 2) (loByte v) (memWrite (s.sp - 1) (hiByte v) s))

/-- The word `Pop16()` returns: low byte from SP, high byte from SP+1 (10_state.md R19). -/
def popValue (s : State) : Word := memRead16 s.sp s

/-- The state `Pop16()` leaves (10_state.md R19). -/
def popDrop (s : State) : State := spSet (s.sp + 2) s

/-! ## The instruction stream -/

/-- `Fetch8()` (30_encoding.md R73): the byte at PC, and PC advanced by one mod 65536. -/
def fetch8 (s : State) : Byte × State := (memRead s.pc s, pcSet (s.pc + 1) s)

/-- `Fetch16()` (30_encoding.md R74): two `Fetch8()`, the low byte first. -/
def fetch16 (s : State) : Word × State :=
  let lo := fetch8 s
  let hi := fetch8 lo.2
  (wordOf hi.1 lo.1, hi.2)

/-- `raise UnsupportedOpcode(pc, opcode)` (60_exceptions.md R260, R261): the block's one exceptional condition. It is a
value returned to the host, enters no handler and changes no state, so the outcome carries no state (R266). -/
def raiseUnsupportedOpcode (pc : Word) (op : Byte) : Fault := .unsupportedOpcode pc op

/-- Fetch and dispatch (30_encoding.md R75), and then the operand bytes, all of them before any effect (R76): the
instruction and the state in which PC points past it. -/
def fetchInstr (s : State) : Except Fault (Instr × State) :=
  let op := fetch8 s
  match dispatch op.1 with
  | none => .error (raiseUnsupportedOpcode s.pc op.1)
  | some (.f1 i) => .ok (i, op.2)
  | some (.f2 k) => .ok (k (fetch8 op.2).1, (fetch8 op.2).2)
  | some (.f3 k) => .ok (k (fetch16 op.2).1, (fetch16 op.2).2)

/-- `HLT_MODE = halt and halted = 1`: `step()` does nothing (30_encoding.md R75, 10_state.md R30). -/
def isStopped (s : State) : Bool := decide (s.params.hltMode = .halt) && s.halted

/-! ## Outcomes -/

/-- A function applied to the next state of an outcome; a fault or a refusal stays as it is. -/
def mapNext (f : State → State) : Result → Result
  | .next s => .next (f s)
  | .fault r => .fault r
  | .refused r => .refused r

end Sys2Proof.Machine
end

