-- ==== Sys2Proof/Machine/Flags.lean ====
section
/-! DEFINITION. The flag computations: parity, `ZSP`, the PSW byte (10_state.md), the adders (42_arithmetic.md), and
the results of the increment, logical, rotate and decimal-adjust instructions with their flags. -/

namespace Sys2Proof.Machine

/-- The number of 1 bits of a byte. -/
def bitCount (v : Byte) : Nat :=
  (v.getLsbD 0).toNat + (v.getLsbD 1).toNat + (v.getLsbD 2).toNat + (v.getLsbD 3).toNat
    + (v.getLsbD 4).toNat + (v.getLsbD 5).toNat + (v.getLsbD 6).toNat + (v.getLsbD 7).toNat

/-- `parity(v)`: 1 when the number of 1 bits is even (10_state.md R23). -/
def parity (v : Byte) : Bool := decide (bitCount v % 2 = 0)

/-- `ZSP(v)`: writes Z, S and P from a byte, and no other flag (10_state.md R24). -/
def zsp (v : Byte) (f : Flags) : Flags :=
  { f with z := decide (v = 0), s := v.getLsbD 7, p := parity v }

/-- The low nibble `v[3:0]`. -/
def loNibble (v : Byte) : Nat := v.toNat % 16

/-- The high nibble `v[7:4]`. -/
def hiNibble (v : Byte) : Nat := v.toNat / 16

/-! ## The PSW byte -/

/-- `PackPSW()` (10_state.md R26). -/
def packPsw (f : Flags) : Byte :=
  BitVec.ofNat 8 (f.s.toNat * 128 + f.z.toNat * 64 + f.ac.toNat * 16 + f.p.toNat * 4 + 2 + f.cy.toNat)

/-- `UnpackPSW(b)` (10_state.md R27): bits 5, 3 and 1 are discarded. -/
def unpackPsw (v : Byte) : Flags where
  s := v.getLsbD 7
  z := v.getLsbD 6
  ac := v.getLsbD 4
  p := v.getLsbD 2
  cy := v.getLsbD 0

/-! ## The adders -/

/-- What an adder returns: the 8-bit result, the carry (or borrow) and the auxiliary carry. -/
structure AluOut where
  r : Byte
  cy : Bool
  ac : Bool
  deriving DecidableEq, Repr

/-- `Add8(a, b, cin)` (42_arithmetic.md R135). -/
def add8 (a b : Byte) (cin : Bool) : AluOut where
  r := BitVec.ofNat 8 (a.toNat + b.toNat + cin.toNat)
  cy := decide (255 < a.toNat + b.toNat + cin.toNat)
  ac := decide (15 < loNibble a + loNibble b + cin.toNat)

/-- `Sub8(a, b, bin)` (42_arithmetic.md R136): CY is the borrow, AC the carry out of bit 3 of `a + ~b + (1 - bin)`. -/
def sub8 (a b : Byte) (bin : Bool) : AluOut where
  r := BitVec.ofInt 8 ((a.toNat : Int) - (b.toNat : Int) - (bin.toNat : Int))
  cy := decide ((a.toNat : Int) - (b.toNat : Int) - (bin.toNat : Int) < 0)
  ac := decide (15 < loNibble a + loNibble (~~~b) + (1 - bin.toNat))

/-- The five flags an adder's output gives: `CY <- cy; AC <- ac; ZSP(r)` (42_arithmetic.md R138 to R145). -/
def aluFlags (o : AluOut) (f : Flags) : Flags := zsp o.r { f with cy := o.cy, ac := o.ac }

/-! ## Increment and decrement -/

/-- `(v + 1) mod 256` (41_incdec.md R120). -/
def incByte (v : Byte) : Byte := v + 1

/-- The flags of `INR`: AC is the carry out of bit 3 of v + 1, CY is unchanged (41_incdec.md R120). -/
def incFlags (v : Byte) (f : Flags) : Flags :=
  zsp (incByte v) { f with ac := decide (loNibble v = 15) }

/-- `(v - 1) mod 256` (41_incdec.md R122). -/
def decByte (v : Byte) : Byte := v - 1

/-- The flags of `DCR`: AC is 1 unless the low nibble borrows, CY is unchanged (41_incdec.md R122). -/
def decFlags (v : Byte) (f : Flags) : Flags :=
  zsp (decByte v) { f with ac := decide (loNibble v ≠ 0) }

/-- The carry out of bit 15 of a 16-bit addition (41_incdec.md R126). -/
def carry16 (x y : Word) : Bool := decide (0xFFFF < x.toNat + y.toNat)

/-! ## Logical -/

/-- The flags of `ANA` and `ANI`: AC is the OR of bit 3 of the two operands, CY is 0 (43_logical.md R150, R154). -/
def andFlags (a b : Byte) (f : Flags) : Flags :=
  zsp (a &&& b) { f with ac := a.getLsbD 3 || b.getLsbD 3, cy := false }

/-- The flags of `XRA`, `XRI`, `ORA`, `ORI` for the result r: AC and CY are 0 (43_logical.md R151, R152, R155, R156). -/
def logicFlags (r : Byte) (f : Flags) : Flags := zsp r { f with ac := false, cy := false }

/-! ## Rotates -/

/-- `{A[6:0], low}`: A moved left with a new bit 0 (44_rotate_daa.md R170, R172). -/
def rotLeft (a : Byte) (low : Bool) : Byte := BitVec.ofNat 8 (a.toNat * 2 % 256 + low.toNat)

/-- `{high, A[7:1]}`: A moved right with a new bit 7 (44_rotate_daa.md R171, R173). -/
def rotRight (a : Byte) (high : Bool) : Byte := BitVec.ofNat 8 (a.toNat / 2 + high.toNat * 128)

/-! ## Decimal adjust -/

/-- The condition of the 0x06 correction (44_rotate_daa.md R174). -/
def daaLow (a : Byte) (f : Flags) : Bool := decide (9 < loNibble a) || f.ac

/-- The condition of the 0x60 correction (44_rotate_daa.md R174). -/
def daaHigh (a : Byte) (f : Flags) : Bool :=
  decide (9 < hiNibble a) || f.cy || (decide (9 ≤ hiNibble a) && decide (9 < loNibble a))

/-- The correction `corr` (44_rotate_daa.md R174). -/
def daaCorrection (a : Byte) (f : Flags) : Byte :=
  (if daaLow a f then 0x06 else 0x00) + (if daaHigh a f then 0x60 else 0x00)

/-- A after `DAA` (44_rotate_daa.md R174). -/
def daaByte (a : Byte) (f : Flags) : Byte := a + daaCorrection a f

/-- The flags after `DAA` (44_rotate_daa.md R174): CY is set with the 0x60 correction and otherwise kept, AC is the carry
out of bit 3 of the correcting addition. -/
def daaFlags (a : Byte) (f : Flags) : Flags :=
  zsp (daaByte a f)
    { f with
      cy := daaHigh a f || f.cy
      ac := decide (15 < loNibble a + loNibble (daaCorrection a f)) }

end Sys2Proof.Machine
end

