-- ==== Sys2Proof/Machine/Operands.lean ====
section
/-! DEFINITION. Operand forms and the shared shapes of effects over them: the ALU's second operand, the condition codes,
the updates of A and of memory with their flags, and the transfers of control. -/

namespace Sys2Proof.Machine

/-- `Operand8(sss)` (42_arithmetic.md R137): M is one memory read at HL. -/
def operandGet (o : Operand8) (s : State) : Byte :=
  match o with
  | .reg r => regGet r s
  | .mem => memRead (hl s) s

/-- `cond(ccc)` on the flags as they stand when the instruction begins (45_branch.md R180). -/
def condHolds (cc : Cond) (f : Flags) : Bool :=
  match cc with
  | .nz => !f.z
  | .z => f.z
  | .nc => !f.cy
  | .c => f.cy
  | .po => !f.p
  | .pe => f.p
  | .p => !f.s
  | .m => f.s

/-- `A <- v` (10_state.md R10). -/
def accSet (v : Byte) (s : State) : State := regSet .a v s

/-- A and the flags from an adder's output: `A <- r; CY <- cy; AC <- ac; ZSP(r)` (42_arithmetic.md R138). -/
def aluToAcc (o : AluOut) (s : State) : State := flagsSet (aluFlags o s.flags) (accSet o.r s)

/-- The flags of an adder's output, A kept (43_logical.md R153). -/
def aluToFlags (o : AluOut) (s : State) : State := flagsSet (aluFlags o s.flags) s

/-- `A <- A & b` with the flags of 43_logical.md R150. -/
def andToAcc (b : Byte) (s : State) : State :=
  flagsSet (andFlags s.regs.a b s.flags) (accSet (s.regs.a &&& b) s)

/-- `A <- r` with the flags of 43_logical.md R151, R152. -/
def logicToAcc (r : Byte) (s : State) : State := flagsSet (logicFlags r s.flags) (accSet r s)

/-- `A <- r; CY <- cy`, the other flags kept: the rotates (44_rotate_daa.md R170 to R173). -/
def rotateToAcc (r : Byte) (cy : Bool) (s : State) : State := cySet cy (accSet r s)

/-- `pc <- addr` when the condition holds (45_branch.md R182 to R189). -/
def jumpIf (taken : Bool) (adr : Word) (s : State) : State :=
  if taken then pcSet adr s else s

/-- `Push16(PC); pc <- addr` (46_call_return_rst.md R195). -/
def callTo (adr : Word) (s : State) : State := pcSet adr (push16 s.pc s)

/-- A call when the condition holds (46_call_return_rst.md R196 to R203). -/
def callIf (taken : Bool) (adr : Word) (s : State) : State :=
  if taken then callTo adr s else s

/-- `pc <- Pop16()` (46_call_return_rst.md R204). -/
def returnTo (s : State) : State := pcSet (popValue s) (popDrop s)

/-- A return when the condition holds (46_call_return_rst.md R205 to R212). -/
def returnIf (taken : Bool) (s : State) : State :=
  if taken then returnTo s else s

/-- The vector `n * 8` of `RST n` (46_call_return_rst.md R216). -/
def rstVector (n : BitVec 3) : Word := BitVec.ofNat 16 (n.toNat * 8)

end Sys2Proof.Machine
end

