-- ==== Sys2Proof/Machine/Cycles.lean ====
section
/-! DEFINITION. The optional cycle counter (10_state.md R31) with the informational table of
70_reset_and_hazards.md R293. Nothing else depends on it. -/

namespace Sys2Proof.Machine

/-- The count of an ALU instruction with a register or an M operand (70_reset_and_hazards.md R293). -/
def aluCycles (o : Operand8) : Nat :=
  match o with
  | .reg _ => 4
  | .mem => 7

/-- `CYCLES(opcode, taken)` by the table of 70_reset_and_hazards.md R293; `taken` is read from the flags the instruction
starts with. PRESUMED, unsafe for claims about `cyc`: the spec marks the table informational and from general
knowledge (assumption log 7). -/
def cyclesOf (i : Instr) (f : Flags) : Nat :=
  match i with
  | .movRR _ _ => 5
  | .movRM _ => 7
  | .movMR _ => 7
  | .mviR _ _ => 7
  | .mviM _ => 10
  | .lxi _ _ => 10
  | .lda _ => 13
  | .sta _ => 13
  | .lhld _ => 16
  | .shld _ => 16
  | .ldax _ => 7
  | .stax _ => 7
  | .xchg => 4
  | .inrR _ => 5
  | .inrM => 10
  | .dcrR _ => 5
  | .dcrM => 10
  | .inx _ => 5
  | .dcx _ => 5
  | .dad _ => 10
  | .add o => aluCycles o
  | .adc o => aluCycles o
  | .sub o => aluCycles o
  | .sbb o => aluCycles o
  | .adi _ => 7
  | .aci _ => 7
  | .sui _ => 7
  | .sbi _ => 7
  | .ana o => aluCycles o
  | .xra o => aluCycles o
  | .ora o => aluCycles o
  | .cmp o => aluCycles o
  | .ani _ => 7
  | .xri _ => 7
  | .ori _ => 7
  | .cpi _ => 7
  | .cma => 4
  | .stc => 4
  | .cmc => 4
  | .rlc => 4
  | .rrc => 4
  | .ral => 4
  | .rar => 4
  | .daa => 4
  | .jmp _ => 10
  | .jnz _ => 10
  | .jz _ => 10
  | .jnc _ => 10
  | .jc _ => 10
  | .jpo _ => 10
  | .jpe _ => 10
  | .jp _ => 10
  | .jm _ => 10
  | .pchl => 5
  | .call _ => 17
  | .cnz _ => if condHolds .nz f then 17 else 11
  | .cz _ => if condHolds .z f then 17 else 11
  | .cnc _ => if condHolds .nc f then 17 else 11
  | .cc _ => if condHolds .c f then 17 else 11
  | .cpo _ => if condHolds .po f then 17 else 11
  | .cpe _ => if condHolds .pe f then 17 else 11
  | .cp _ => if condHolds .p f then 17 else 11
  | .cm _ => if condHolds .m f then 17 else 11
  | .ret => 10
  | .rnz => if condHolds .nz f then 11 else 5
  | .rz => if condHolds .z f then 11 else 5
  | .rnc => if condHolds .nc f then 11 else 5
  | .rc => if condHolds .c f then 11 else 5
  | .rpo => if condHolds .po f then 11 else 5
  | .rpe => if condHolds .pe f then 11 else 5
  | .rp => if condHolds .p f then 11 else 5
  | .rm => if condHolds .m f then 11 else 5
  | .rst _ => 11
  | .push _ => 11
  | .pushPsw => 11
  | .pop _ => 10
  | .popPsw => 10
  | .xthl => 18
  | .sphl => 5
  | .inp _ => 10
  | .out _ => 10
  | .nop => 4
  | .hlt => 7
  | .di => 4
  | .ei => 4
  | .undocNop _ => 4
  | .undocJmp _ => 10
  | .undocRet => 10
  | .undocCall _ _ => 17

/-- `if HAS_CYCLE_COUNTER = 1: cyc <- cyc + CYCLES(op, taken)` (30_encoding.md R75). -/
def countCycles (i : Instr) (f : Flags) (s : State) : State :=
  { s with cyc := if s.params.hasCycleCounter then s.cyc + cyclesOf i f else s.cyc }

end Sys2Proof.Machine
end

