-- ==== Sys2Proof/Machine/Arithmetic.lean ====
section
/-! DEFINITION. 8-bit arithmetic instructions (42_arithmetic.md). Each meaning is the
effect on the state in which PC already points past the whole instruction (30_encoding.md R76). -/

namespace Sys2Proof.Machine

/-- `ADD s` (R138): `Add8(A, b, 0)`. -/
def execAdd (o : Operand8) (s : State) : Result :=
  .next (aluToAcc (add8 s.regs.a (operandGet o s) false) s)

/-- `ADC s` (R139): `Add8(A, b, CY)`. -/
def execAdc (o : Operand8) (s : State) : Result :=
  .next (aluToAcc (add8 s.regs.a (operandGet o s) s.flags.cy) s)

/-- `SUB s` (R140): `Sub8(A, b, 0)`. -/
def execSub (o : Operand8) (s : State) : Result :=
  .next (aluToAcc (sub8 s.regs.a (operandGet o s) false) s)

/-- `SBB s` (R141): `Sub8(A, b, CY)`. -/
def execSbb (o : Operand8) (s : State) : Result :=
  .next (aluToAcc (sub8 s.regs.a (operandGet o s) s.flags.cy) s)

/-- `ADI d8` (R142): `Add8(A, b, 0)`. -/
def execAdi (v : Byte) (s : State) : Result :=
  .next (aluToAcc (add8 s.regs.a v false) s)

/-- `ACI d8` (R143): `Add8(A, b, CY)`. -/
def execAci (v : Byte) (s : State) : Result :=
  .next (aluToAcc (add8 s.regs.a v s.flags.cy) s)

/-- `SUI d8` (R144): `Sub8(A, b, 0)`. -/
def execSui (v : Byte) (s : State) : Result :=
  .next (aluToAcc (sub8 s.regs.a v false) s)

/-- `SBI d8` (R145): `Sub8(A, b, CY)`. -/
def execSbi (v : Byte) (s : State) : Result :=
  .next (aluToAcc (sub8 s.regs.a v s.flags.cy) s)

end Sys2Proof.Machine
end

