-- ==== Sys2Proof/Machine/Branch.lean ====
section
/-! DEFINITION. Jump instructions (45_branch.md). Each meaning is the
effect on the state in which PC already points past the whole instruction (30_encoding.md R76). -/

namespace Sys2Proof.Machine

/-- `JMP a16` (R181): `pc <- addr`. -/
def execJmp (adr : Word) (s : State) : Result :=
  .next (pcSet adr s)

/-- `JNZ a16` (R182): a jump when NZ holds. -/
def execJnz (adr : Word) (s : State) : Result :=
  .next (jumpIf (condHolds .nz s.flags) adr s)

/-- `JZ a16` (R183): a jump when Z holds. -/
def execJz (adr : Word) (s : State) : Result :=
  .next (jumpIf (condHolds .z s.flags) adr s)

/-- `JNC a16` (R184): a jump when NC holds. -/
def execJnc (adr : Word) (s : State) : Result :=
  .next (jumpIf (condHolds .nc s.flags) adr s)

/-- `JC a16` (R185): a jump when C holds. -/
def execJc (adr : Word) (s : State) : Result :=
  .next (jumpIf (condHolds .c s.flags) adr s)

/-- `JPO a16` (R186): a jump when PO holds. -/
def execJpo (adr : Word) (s : State) : Result :=
  .next (jumpIf (condHolds .po s.flags) adr s)

/-- `JPE a16` (R187): a jump when PE holds. -/
def execJpe (adr : Word) (s : State) : Result :=
  .next (jumpIf (condHolds .pe s.flags) adr s)

/-- `JP a16` (R188): a jump when P holds. -/
def execJp (adr : Word) (s : State) : Result :=
  .next (jumpIf (condHolds .p s.flags) adr s)

/-- `JM a16` (R189): a jump when M holds. -/
def execJm (adr : Word) (s : State) : Result :=
  .next (jumpIf (condHolds .m s.flags) adr s)

/-- `PCHL` (R190): `pc <- HL`. -/
def execPchl (s : State) : Result :=
  .next (pcSet (hl s) s)

end Sys2Proof.Machine
end

