-- ==== Sys2Proof/Machine/CallReturn.lean ====
section
/-! DEFINITION. Call, return and restart instructions (46_call_return_rst.md). Each meaning is the
effect on the state in which PC already points past the whole instruction (30_encoding.md R76). -/

namespace Sys2Proof.Machine

/-- `CALL a16` (R195): `Push16(PC); pc <- addr`. -/
def execCall (adr : Word) (s : State) : Result :=
  .next (callTo adr s)

/-- `CNZ a16` (R196): a call when NZ holds. -/
def execCnz (adr : Word) (s : State) : Result :=
  .next (callIf (condHolds .nz s.flags) adr s)

/-- `CZ a16` (R197): a call when Z holds. -/
def execCz (adr : Word) (s : State) : Result :=
  .next (callIf (condHolds .z s.flags) adr s)

/-- `CNC a16` (R198): a call when NC holds. -/
def execCnc (adr : Word) (s : State) : Result :=
  .next (callIf (condHolds .nc s.flags) adr s)

/-- `CC a16` (R199): a call when C holds. -/
def execCc (adr : Word) (s : State) : Result :=
  .next (callIf (condHolds .c s.flags) adr s)

/-- `CPO a16` (R200): a call when PO holds. -/
def execCpo (adr : Word) (s : State) : Result :=
  .next (callIf (condHolds .po s.flags) adr s)

/-- `CPE a16` (R201): a call when PE holds. -/
def execCpe (adr : Word) (s : State) : Result :=
  .next (callIf (condHolds .pe s.flags) adr s)

/-- `CP a16` (R202): a call when P holds. -/
def execCp (adr : Word) (s : State) : Result :=
  .next (callIf (condHolds .p s.flags) adr s)

/-- `CM a16` (R203): a call when M holds. -/
def execCm (adr : Word) (s : State) : Result :=
  .next (callIf (condHolds .m s.flags) adr s)

/-- `RET` (R204): `pc <- Pop16()`. -/
def execRet (s : State) : Result :=
  .next (returnTo s)

/-- `RNZ` (R205): a return when NZ holds. -/
def execRnz (s : State) : Result :=
  .next (returnIf (condHolds .nz s.flags) s)

/-- `RZ` (R206): a return when Z holds. -/
def execRz (s : State) : Result :=
  .next (returnIf (condHolds .z s.flags) s)

/-- `RNC` (R207): a return when NC holds. -/
def execRnc (s : State) : Result :=
  .next (returnIf (condHolds .nc s.flags) s)

/-- `RC` (R208): a return when C holds. -/
def execRc (s : State) : Result :=
  .next (returnIf (condHolds .c s.flags) s)

/-- `RPO` (R209): a return when PO holds. -/
def execRpo (s : State) : Result :=
  .next (returnIf (condHolds .po s.flags) s)

/-- `RPE` (R210): a return when PE holds. -/
def execRpe (s : State) : Result :=
  .next (returnIf (condHolds .pe s.flags) s)

/-- `RP` (R211): a return when P holds. -/
def execRp (s : State) : Result :=
  .next (returnIf (condHolds .p s.flags) s)

/-- `RM` (R212): a return when M holds. -/
def execRm (s : State) : Result :=
  .next (returnIf (condHolds .m s.flags) s)

/-- `RST n` (R216): `Push16(PC); pc <- n * 8`. -/
def execRst (n : BitVec 3) (s : State) : Result :=
  .next (callTo (rstVector n) s)

end Sys2Proof.Machine
end

