-- ==== Sys2Proof/Machine/DataTransfer.lean ====
section
/-! DEFINITION. Data transfer instructions (40_data_transfer.md). Each meaning is the
effect on the state in which PC already points past the whole instruction (30_encoding.md R76). -/

namespace Sys2Proof.Machine

/-- `MOV d,s` (R100): `r8[ddd] <- r8[sss]`. -/
def execMovRR (dst : Reg8) (src : Reg8) (s : State) : Result :=
  .next (regSet dst (regGet src s) s)

/-- `MOV d,M` (R101): `r8[ddd] <- MemRead(HL, 1)`, HL as before the instruction. -/
def execMovRM (dst : Reg8) (s : State) : Result :=
  .next (regSet dst (memRead (hl s) s) s)

/-- `MOV M,s` (R102): `MemWrite(HL, 1, r8[sss])`. -/
def execMovMR (src : Reg8) (s : State) : Result :=
  .next (memWrite (hl s) (regGet src s) s)

/-- `MVI d,d8` (R103): `r8[ddd] <- v`. -/
def execMviR (dst : Reg8) (v : Byte) (s : State) : Result :=
  .next (regSet dst v s)

/-- `MVI M,d8` (R104): `MemWrite(HL, 1, v)`. -/
def execMviM (v : Byte) (s : State) : Result :=
  .next (memWrite (hl s) v s)

/-- `LXI rp,d16` (R105): `rp[rp] <- v`. -/
def execLxi (p : PairSp) (v : Word) (s : State) : Result :=
  .next (pairSpSet p v s)

/-- `LDA a16` (R106): `A <- MemRead(addr, 1)`. -/
def execLda (adr : Word) (s : State) : Result :=
  .next (accSet (memRead adr s) s)

/-- `STA a16` (R107): `MemWrite(addr, 1, A)`. -/
def execSta (adr : Word) (s : State) : Result :=
  .next (memWrite adr s.regs.a s)

/-- `LHLD a16` (R108): `HL <- MemRead(addr, 2)`. -/
def execLhld (adr : Word) (s : State) : Result :=
  .next (pairSet .hl (memRead16 adr s) s)

/-- `SHLD a16` (R109): `MemWrite(addr, 2, HL)`. -/
def execShld (adr : Word) (s : State) : Result :=
  .next (memWrite16 adr (hl s) s)

/-- `LDAX rp` (R110): `A <- MemRead(rp[p], 1)`. -/
def execLdax (p : PairIdx) (s : State) : Result :=
  .next (accSet (memRead (pairIdxGet p s) s) s)

/-- `STAX rp` (R111): `MemWrite(rp[p], 1, A)`. -/
def execStax (p : PairIdx) (s : State) : Result :=
  .next (memWrite (pairIdxGet p s) s.regs.a s)

/-- `XCHG` (R112): `t <- HL; HL <- DE; DE <- t`. -/
def execXchg (s : State) : Result :=
  .next (pairSet .de (hl s) (pairSet .hl (pairGet .de s) s))

end Sys2Proof.Machine
end

