-- ==== Sys2Proof/Machine/IncDec.lean ====
section
/-! DEFINITION. Increment, decrement and 16-bit add (41_incdec.md). Each meaning is the
effect on the state in which PC already points past the whole instruction (30_encoding.md R76). -/

namespace Sys2Proof.Machine

/-- `INR d` (R120): S, Z, AC, P from v + 1, CY kept. -/
def execInrR (dst : Reg8) (s : State) : Result :=
  .next (flagsSet (incFlags (regGet dst s) s.flags) (regSet dst (incByte (regGet dst s)) s))

/-- `INR M` (R121): a read-modify-write of the byte at HL; the flags are set though the store be dropped. -/
def execInrM (s : State) : Result :=
  .next (flagsSet (incFlags (memRead (hl s) s) s.flags) (memWrite (hl s) (incByte (memRead (hl s) s)) s))

/-- `DCR d` (R122): S, Z, AC, P from v - 1, CY kept. -/
def execDcrR (dst : Reg8) (s : State) : Result :=
  .next (flagsSet (decFlags (regGet dst s) s.flags) (regSet dst (decByte (regGet dst s)) s))

/-- `DCR M` (R123): a read-modify-write of the byte at HL; the flags are set though the store be dropped. -/
def execDcrM (s : State) : Result :=
  .next (flagsSet (decFlags (memRead (hl s) s) s.flags) (memWrite (hl s) (decByte (memRead (hl s) s)) s))

/-- `INX rp` (R124): `rp[rp] <- (rp[rp] + 1) mod 65536`, no flag. -/
def execInx (p : PairSp) (s : State) : Result :=
  .next (pairSpSet p (pairSpGet p s + 1) s)

/-- `DCX rp` (R125): `rp[rp] <- (rp[rp] - 1) mod 65536`, no flag. -/
def execDcx (p : PairSp) (s : State) : Result :=
  .next (pairSpSet p (pairSpGet p s - 1) s)

/-- `DAD rp` (R126): `HL <- HL + rp[rp]`, CY the carry out of bit 15, no other flag. -/
def execDad (p : PairSp) (s : State) : Result :=
  .next (cySet (carry16 (hl s) (pairSpGet p s)) (pairSet .hl (hl s + pairSpGet p s) s))

end Sys2Proof.Machine
end

