-- ==== Sys2Proof/Machine/IoControl.lean ====
section
/-! DEFINITION. Input/output and machine control (48_io_control.md). Each meaning is the
effect on the state in which PC already points past the whole instruction (30_encoding.md R76). -/

namespace Sys2Proof.Machine

/-- The halt latch is set under `HLT_MODE = halt`; under `HLT_MODE = nop` nothing happens (48_io_control.md R238). -/
def haltLatch (s : State) : State :=
  { s with halted := decide (s.params.hltMode = .halt) || s.halted }

/-- `IN p8` (R235): `A <- PortRead(p)`. -/
def execInp (n : Byte) (s : State) : Result :=
  .next (accSet (portRead n s) s)

/-- `OUT p8` (R236): `PortWrite(p, A)`. -/
def execOut (n : Byte) (s : State) : Result :=
  .next (portWrite n s.regs.a s)

/-- `NOP` (R237): nothing. -/
def execNop (s : State) : Result :=
  .next s

/-- `HLT` (R238): `if HLT_MODE = halt: halted <- 1`. -/
def execHlt (s : State) : Result :=
  .next (haltLatch s)

/-- `DI` (R239): `INTE <- 0`. -/
def execDi (s : State) : Result :=
  .next (inteSet false s)

/-- `EI` (R240): `INTE <- 1`, at once. -/
def execEi (s : State) : Result :=
  .next (inteSet true s)

end Sys2Proof.Machine
end

