-- ==== Sys2Proof/Machine/Logical.lean ====
section
/-! DEFINITION. Logical, compare, complement and carry instructions (43_logical.md). Each meaning is the
effect on the state in which PC already points past the whole instruction (30_encoding.md R76). -/

namespace Sys2Proof.Machine

/-- `ANA s` (R150): `A <- A & b`. -/
def execAna (o : Operand8) (s : State) : Result :=
  .next (andToAcc (operandGet o s) s)

/-- `XRA s` (R151): `A <- A ^ b`. -/
def execXra (o : Operand8) (s : State) : Result :=
  .next (logicToAcc (s.regs.a ^^^ (operandGet o s)) s)

/-- `ORA s` (R152): `A <- A | b`. -/
def execOra (o : Operand8) (s : State) : Result :=
  .next (logicToAcc (s.regs.a ||| (operandGet o s)) s)

/-- `CMP s` (R153): the flags of `Sub8(A, b, 0)`, A not written. -/
def execCmp (o : Operand8) (s : State) : Result :=
  .next (aluToFlags (sub8 s.regs.a (operandGet o s) false) s)

/-- `ANI d8` (R154): `A <- A & b`. -/
def execAni (v : Byte) (s : State) : Result :=
  .next (andToAcc v s)

/-- `XRI d8` (R155): `A <- A ^ b`. -/
def execXri (v : Byte) (s : State) : Result :=
  .next (logicToAcc (s.regs.a ^^^ v) s)

/-- `ORI d8` (R156): `A <- A | b`. -/
def execOri (v : Byte) (s : State) : Result :=
  .next (logicToAcc (s.regs.a ||| v) s)

/-- `CPI d8` (R157): the flags of `Sub8(A, b, 0)`, A not written. -/
def execCpi (v : Byte) (s : State) : Result :=
  .next (aluToFlags (sub8 s.regs.a v false) s)

/-- `CMA` (R158): `A <- ~A`, no flag. -/
def execCma (s : State) : Result :=
  .next (accSet (~~~s.regs.a) s)

/-- `STC` (R159): `CY <- 1`. -/
def execStc (s : State) : Result :=
  .next (cySet true s)

/-- `CMC` (R160): `CY <- 1 - CY`. -/
def execCmc (s : State) : Result :=
  .next (cySet (!s.flags.cy) s)

end Sys2Proof.Machine
end

