-- ==== Sys2Proof/Machine/RotateDaa.lean ====
section
/-! DEFINITION. Rotates and DAA (44_rotate_daa.md). Each meaning is the
effect on the state in which PC already points past the whole instruction (30_encoding.md R76). -/

namespace Sys2Proof.Machine

/-- `RLC` (R170): `{A[6:0], A[7]}`, CY the old bit 7. -/
def execRlc (s : State) : Result :=
  .next (rotateToAcc (rotLeft s.regs.a (s.regs.a.getLsbD 7)) (s.regs.a.getLsbD 7) s)

/-- `RRC` (R171): `{A[0], A[7:1]}`, CY the old bit 0. -/
def execRrc (s : State) : Result :=
  .next (rotateToAcc (rotRight s.regs.a (s.regs.a.getLsbD 0)) (s.regs.a.getLsbD 0) s)

/-- `RAL` (R172): `{A[6:0], old CY}`, CY the old bit 7. -/
def execRal (s : State) : Result :=
  .next (rotateToAcc (rotLeft s.regs.a s.flags.cy) (s.regs.a.getLsbD 7) s)

/-- `RAR` (R173): `{old CY, A[7:1]}`, CY the old bit 0. -/
def execRar (s : State) : Result :=
  .next (rotateToAcc (rotRight s.regs.a s.flags.cy) (s.regs.a.getLsbD 0) s)

/-- `DAA` (R174): the single correction of R174. -/
def execDaa (s : State) : Result :=
  .next (flagsSet (daaFlags s.regs.a s.flags) (accSet (daaByte s.regs.a s.flags) s))

end Sys2Proof.Machine
end

