-- ==== Sys2Proof/Machine/Stack.lean ====
section
/-! DEFINITION. Stack instructions (47_stack.md). Each meaning is the
effect on the state in which PC already points past the whole instruction (30_encoding.md R76). -/

namespace Sys2Proof.Machine

/-- `PUSH rp` (R220): `Push16(rp[pp])`. -/
def execPush (p : Pair) (s : State) : Result :=
  .next (push16 (pairGet p s) s)

/-- `PUSH PSW` (R222): `Push16({A, PackPSW()})`. -/
def execPushPsw (s : State) : Result :=
  .next (push16 (wordOf s.regs.a (packPsw s.flags)) s)

/-- `POP rp` (R221): `rp[pp] <- Pop16()`. -/
def execPop (p : Pair) (s : State) : Result :=
  .next (pairSet p (popValue s) (popDrop s))

/-- `POP PSW` (R224): `A <- v[15:8]; UnpackPSW(v[7:0])`. -/
def execPopPsw (s : State) : Result :=
  .next (flagsSet (unpackPsw (loByte (popValue s))) (accSet (hiByte (popValue s)) (popDrop s)))

/-- `XTHL` (R225): both reads before either write. -/
def execXthl (s : State) : Result :=
  .next (pairSet .hl (memRead16 s.sp s) (memWrite16 s.sp (hl s) s))

/-- `SPHL` (R226): `SP <- {H, L}`. -/
def execSphl (s : State) : Result :=
  .next (spSet (hl s) s)

end Sys2Proof.Machine
end

