-- ==== Sys2Proof/Machine/Undocumented.lean ====
section
/-! DEFINITION. The twelve undocumented opcodes (49_undocumented.md). Each meaning is the
effect on the state in which PC already points past the whole instruction (30_encoding.md R76). -/

namespace Sys2Proof.Machine

/-- `*NOP` (R245): nothing, as `NOP`. -/
def execUndocNop (_n : BitVec 3) (s : State) : Result :=
  .next s

/-- `*JMP a16` (R246): as `JMP`. -/
def execUndocJmp (adr : Word) (s : State) : Result :=
  .next (pcSet adr s)

/-- `*RET` (R247): as `RET`. -/
def execUndocRet (s : State) : Result :=
  .next (returnTo s)

/-- `*CALL a16` (R248): as `CALL`. -/
def execUndocCall (_x : BitVec 2) (adr : Word) (s : State) : Result :=
  .next (callTo adr s)

end Sys2Proof.Machine
end

