-- ==== Sys2Proof/Machine/Dispatch.lean ====
section
/-! DEFINITION. Dispatch: one arm per instruction, each one direct call of that instruction's meaning
(30_encoding.md R75, R77: "each a self-contained handler (no fallthrough between cases)"). -/

namespace Sys2Proof.Machine

/-- The effect of an instruction, on the state in which PC already points past the whole instruction
(30_encoding.md R76). -/
def exec (i : Instr) (s : State) : Host.Outcome State Fault Refusal :=
  match i with
  -- 40_data_transfer.md
  | .movRR dst src => Sys2Proof.Machine.execMovRR dst src s
  | .movRM dst => Sys2Proof.Machine.execMovRM dst s
  | .movMR src => Sys2Proof.Machine.execMovMR src s
  | .mviR dst v => Sys2Proof.Machine.execMviR dst v s
  | .mviM v => Sys2Proof.Machine.execMviM v s
  | .lxi p v => Sys2Proof.Machine.execLxi p v s
  | .lda adr => Sys2Proof.Machine.execLda adr s
  | .sta adr => Sys2Proof.Machine.execSta adr s
  | .lhld adr => Sys2Proof.Machine.execLhld adr s
  | .shld adr => Sys2Proof.Machine.execShld adr s
  | .ldax p => Sys2Proof.Machine.execLdax p s
  | .stax p => Sys2Proof.Machine.execStax p s
  | .xchg => Sys2Proof.Machine.execXchg s
  -- 41_incdec.md
  | .inrR dst => Sys2Proof.Machine.execInrR dst s
  | .inrM => Sys2Proof.Machine.execInrM s
  | .dcrR dst => Sys2Proof.Machine.execDcrR dst s
  | .dcrM => Sys2Proof.Machine.execDcrM s
  | .inx p => Sys2Proof.Machine.execInx p s
  | .dcx p => Sys2Proof.Machine.execDcx p s
  | .dad p => Sys2Proof.Machine.execDad p s
  -- 42_arithmetic.md
  | .add o => Sys2Proof.Machine.execAdd o s
  | .adc o => Sys2Proof.Machine.execAdc o s
  | .sub o => Sys2Proof.Machine.execSub o s
  | .sbb o => Sys2Proof.Machine.execSbb o s
  | .adi v => Sys2Proof.Machine.execAdi v s
  | .aci v => Sys2Proof.Machine.execAci v s
  | .sui v => Sys2Proof.Machine.execSui v s
  | .sbi v => Sys2Proof.Machine.execSbi v s
  -- 43_logical.md
  | .ana o => Sys2Proof.Machine.execAna o s
  | .xra o => Sys2Proof.Machine.execXra o s
  | .ora o => Sys2Proof.Machine.execOra o s
  | .cmp o => Sys2Proof.Machine.execCmp o s
  | .ani v => Sys2Proof.Machine.execAni v s
  | .xri v => Sys2Proof.Machine.execXri v s
  | .ori v => Sys2Proof.Machine.execOri v s
  | .cpi v => Sys2Proof.Machine.execCpi v s
  | .cma => Sys2Proof.Machine.execCma s
  | .stc => Sys2Proof.Machine.execStc s
  | .cmc => Sys2Proof.Machine.execCmc s
  -- 44_rotate_daa.md
  | .rlc => Sys2Proof.Machine.execRlc s
  | .rrc => Sys2Proof.Machine.execRrc s
  | .ral => Sys2Proof.Machine.execRal s
  | .rar => Sys2Proof.Machine.execRar s
  | .daa => Sys2Proof.Machine.execDaa s
  -- 45_branch.md
  | .jmp adr => Sys2Proof.Machine.execJmp adr s
  | .jnz adr => Sys2Proof.Machine.execJnz adr s
  | .jz adr => Sys2Proof.Machine.execJz adr s
  | .jnc adr => Sys2Proof.Machine.execJnc adr s
  | .jc adr => Sys2Proof.Machine.execJc adr s
  | .jpo adr => Sys2Proof.Machine.execJpo adr s
  | .jpe adr => Sys2Proof.Machine.execJpe adr s
  | .jp adr => Sys2Proof.Machine.execJp adr s
  | .jm adr => Sys2Proof.Machine.execJm adr s
  | .pchl => Sys2Proof.Machine.execPchl s
  -- 46_call_return_rst.md
  | .call adr => Sys2Proof.Machine.execCall adr s
  | .cnz adr => Sys2Proof.Machine.execCnz adr s
  | .cz adr => Sys2Proof.Machine.execCz adr s
  | .cnc adr => Sys2Proof.Machine.execCnc adr s
  | .cc adr => Sys2Proof.Machine.execCc adr s
  | .cpo adr => Sys2Proof.Machine.execCpo adr s
  | .cpe adr => Sys2Proof.Machine.execCpe adr s
  | .cp adr => Sys2Proof.Machine.execCp adr s
  | .cm adr => Sys2Proof.Machine.execCm adr s
  | .ret => Sys2Proof.Machine.execRet s
  | .rnz => Sys2Proof.Machine.execRnz s
  | .rz => Sys2Proof.Machine.execRz s
  | .rnc => Sys2Proof.Machine.execRnc s
  | .rc => Sys2Proof.Machine.execRc s
  | .rpo => Sys2Proof.Machine.execRpo s
  | .rpe => Sys2Proof.Machine.execRpe s
  | .rp => Sys2Proof.Machine.execRp s
  | .rm => Sys2Proof.Machine.execRm s
  | .rst n => Sys2Proof.Machine.execRst n s
  -- 47_stack.md
  | .push p => Sys2Proof.Machine.execPush p s
  | .pushPsw => Sys2Proof.Machine.execPushPsw s
  | .pop p => Sys2Proof.Machine.execPop p s
  | .popPsw => Sys2Proof.Machine.execPopPsw s
  | .xthl => Sys2Proof.Machine.execXthl s
  | .sphl => Sys2Proof.Machine.execSphl s
  -- 48_io_control.md
  | .inp n => Sys2Proof.Machine.execInp n s
  | .out n => Sys2Proof.Machine.execOut n s
  | .nop => Sys2Proof.Machine.execNop s
  | .hlt => Sys2Proof.Machine.execHlt s
  | .di => Sys2Proof.Machine.execDi s
  | .ei => Sys2Proof.Machine.execEi s
  -- 49_undocumented.md
  | .undocNop n => Sys2Proof.Machine.execUndocNop n s
  | .undocJmp adr => Sys2Proof.Machine.execUndocJmp adr s
  | .undocRet => Sys2Proof.Machine.execUndocRet s
  | .undocCall x adr => Sys2Proof.Machine.execUndocCall x adr s

end Sys2Proof.Machine
end

