-- ==== Sys2Proof/Machine/Step.lean ====
section
/-! DEFINITION. One call of `step()` (30_encoding.md R75), and how a word of the opcode table is placed where the next
step fetches. -/

namespace Sys2Proof.Machine

/-- `step()` (30_encoding.md R75): nothing at all while halted; else fetch, dispatch, execute, and the optional count. -/
def step (s : State) : Host.Outcome State Fault Refusal :=
  if isStopped s then .next s
  else
    match fetchInstr s with
    | .error r => .fault r
    | .ok (i, s') => mapNext (countCycles i s.flags) (exec i s')

/-- The instruction whose bits are `w`, loaded at PC as the host's `load` does (20_memory.md R46), and the halt latch
clear, so that the next step fetches and runs it (assumption log 8). -/
def State.withFetchWord (s : State) (nbits w : Nat) : State :=
  { s with mem := loadBytes (tableBytes nbits w) s.pc s.mem, halted := false }

end Sys2Proof.Machine
end

