-- ==== Sys2Proof/Machine/HostOps.lean ====
section
/-! DEFINITION. The host interface (70_reset_and_hazards.md R280 to R287): what the block's one owner may do between
steps. -/

namespace Sys2Proof.Machine

/-- `reset()` (70_reset_and_hazards.md R280): the state of a block just created, memory and ports kept. -/
def hostReset (s : State) : State := State.created s.params s.mem s.inPorts s.outPorts

/-- `load(bytes, origin)` (70_reset_and_hazards.md R281, 20_memory.md R46); `none` when the image is longer than 65536
bytes and refused. -/
def hostLoad (bytes : List Byte) (origin : Word) (s : State) : Option State :=
  if bytes.length ≤ 65536 then some { s with mem := loadBytes bytes origin s.mem } else none

/-- `read_port(n)`, n reduced mod 256 (70_reset_and_hazards.md R285). -/
def hostReadPort (n : Nat) (s : State) : Byte := portRead (BitVec.ofNat 8 n) s

/-- `write_port(n, v)`, n and v reduced mod 256 (70_reset_and_hazards.md R285). -/
def hostWritePort (n v : Nat) (s : State) : State := portWrite (BitVec.ofNat 8 n) (BitVec.ofNat 8 v) s

/-- `set_input(n, v)`: `in[n mod 256] <- v mod 256` (70_reset_and_hazards.md R286). -/
def hostSetInput (n v : Nat) (s : State) : State :=
  { s with inPorts := cellWrite s.inPorts (n % 256) (BitVec.ofNat 8 v) }

/-- The state after `step()` has returned, `Ok` or not: a failed step changes nothing, and the host may go on
(60_exceptions.md R261). -/
def hostStep (s : State) : State :=
  match step s with
  | .next t => t
  | .fault _ => s
  | .refused _ => s

/-- What the host can read (70_reset_and_hazards.md R284). -/
inductive Accessor where
  | reg (r : Reg8)
  | pair (p : Pair)
  | signFlag
  | zeroFlag
  | auxFlag
  | parityFlag
  | carryFlag
  | psw
  | pc
  | sp
  | inte
  | mem (adr : Word)
  | inPort (n : Byte)
  | outPort (n : Byte)
  | halted
  | cyc
  deriving DecidableEq, Repr

/-- The value an accessor returns (70_reset_and_hazards.md R284); `none` where the block has no such bit or counter. -/
def hostRead (x : Accessor) (s : State) : Option Nat :=
  match x with
  | .reg r => some (regGet r s).toNat
  | .pair p => some (pairGet p s).toNat
  | .signFlag => some s.flags.s.toNat
  | .zeroFlag => some s.flags.z.toNat
  | .auxFlag => some s.flags.ac.toNat
  | .parityFlag => some s.flags.p.toNat
  | .carryFlag => some s.flags.cy.toNat
  | .psw => some (packPsw s.flags).toNat
  | .pc => some s.pc.toNat
  | .sp => some s.sp.toNat
  | .inte => some s.inte.toNat
  | .mem adr => some (memRead adr s).toNat
  | .inPort n => some (portRead n s).toNat
  | .outPort n => some (outPortRead n s).toNat
  | .halted => if s.params.hltMode = .halt then some s.halted.toNat else none
  | .cyc => if s.params.hasCycleCounter then some s.cyc else none

/-- The host's calls that can change state (70_reset_and_hazards.md R287: there are no others). -/
inductive HostCall where
  | reset
  | load (bytes : List Byte) (origin : Word)
  | step
  | writePort (n v : Nat)
  | setInput (n v : Nat)
  deriving DecidableEq, Repr

/-- The state after one host call. A refused `load` changes nothing (20_memory.md R46). -/
def hostCall (x : HostCall) (s : State) : State :=
  match x with
  | .reset => hostReset s
  | .load bytes origin => (hostLoad bytes origin s).getD s
  | .step => hostStep s
  | .writePort n v => hostWritePort n v s
  | .setInput n v => hostSetInput n v s

/-- The state after a sequence of host calls: a run, driven from outside (70_reset_and_hazards.md R288, R292). -/
def hostRun : List HostCall → State → State
  | [], s => s
  | x :: rest, s => hostRun rest (hostCall x s)

end Sys2Proof.Machine
end

