-- ==== Sys2Proof/Safety.lean ====
section
/-! DEFINITION. The terms claims are stated in: the invariant of a safe run, what an instruction may leave unchanged,
and the flags of a result written from the spec's words. -/

namespace Sys2Proof.Safety

open Sys2Proof.Machine

/-- The invariant of every run: memory and both port banks in canonical form; the halt latch in use only under
`HLT_MODE = halt` (10_state.md R30); the cycle counter in use only under `HAS_CYCLE_COUNTER = 1` (R31). -/
def inv (s : State) : Bool :=
  Memory.wf s.mem && PortBank.wf s.inPorts && PortBank.wf s.outPorts
    && (decide (s.params.hltMode = .halt) || !s.halted)
    && (s.params.hasCycleCounter || decide (s.cyc = 0))

/-- The bytes `bs`, whatever follows them, decode to `i` and are used up by it. -/
def Encodes (bs : List Byte) (i : Instr) : Prop :=
  ∀ rest, decode (bs ++ rest) = .ok (i, rest)

/-- What an instruction leaves unchanged beside PC, SP and the flags, which each claim states for itself: every register
outside `ds`, every byte of memory outside `ms`, both port banks, INTE, the halt latch, the cycle counter and the
parameters. -/
structure KeptBut (ds : List Reg8) (ms : List Word) (s t : State) : Prop where
  regs : ∀ r, r ∉ ds → regGet r t = regGet r s
  mem : ∀ adr, adr ∉ ms → memRead adr t = memRead adr s
  inPorts : ∀ n, portRead n t = portRead n s
  outPorts : ∀ n, outPortRead n t = outPortRead n s
  inte : t.inte = s.inte
  halted : t.halted = s.halted
  cyc : t.cyc = s.cyc
  params : t.params = s.params

/-- PC, SP and the flags are unchanged. (`exec` starts with PC past the whole instruction.) -/
def SamePcSpFlags (s t : State) : Prop := t.pc = s.pc ∧ t.sp = s.sp ∧ t.flags = s.flags

/-- The registers of a pair operand; none for SP. -/
def pairRegs : PairSp → List Reg8
  | .pair .bc => [.b, .c]
  | .pair .de => [.d, .e]
  | .pair .hl => [.h, .l]
  | .sp => []

/-- The byte at `adr` after a store of `v` (20_memory.md R42): the byte stored, or the old byte where `adr` lies in
`ROM_LO..ROM_HI`. The premise is the canonical form of the memory the store works on. -/
def Stored (adr : Word) (v : Byte) (s t : State) : Prop :=
  Memory.wf s.mem = true →
    memRead adr t = if s.params.romLo ≤ adr ∧ adr ≤ s.params.romHi then memRead adr s else v

/-- The number of 1 bits of a byte. -/
def ones (v : Byte) : Nat := (List.range 8).countP fun k => v.getLsbD k

/-- The flags of an 8-bit result (10_state.md R21, R23): S is bit 7, Z is 1 when the result is zero, P is 1 when the
number of 1 bits is even; AC and CY as given. -/
def flagsOf (r : Byte) (ac cy : Bool) : Flags where
  s := decide (128 ≤ r.toNat)
  z := decide (r.toNat = 0)
  ac := ac
  p := decide (ones r % 2 = 0)
  cy := cy

/-- `A <- (A + b + cin) mod 256` with the five flags of an addition (42_arithmetic.md R135): CY the carry out of bit 7,
AC the carry out of bit 3. Nothing else changes. -/
def AddsToA (i : Instr) (b : Byte) (cin : Bool) (s : State) : Prop :=
  ∃ t, exec i s = .next t
    ∧ t.regs.a.toNat = (s.regs.a.toNat + b.toNat + cin.toNat) % 256
    ∧ t.flags = flagsOf t.regs.a
        (decide (15 < s.regs.a.toNat % 16 + b.toNat % 16 + cin.toNat))
        (decide (255 < s.regs.a.toNat + b.toNat + cin.toNat))
    ∧ KeptBut [.a] [] s t ∧ t.pc = s.pc ∧ t.sp = s.sp

/-- `A <- (A - b - bin) mod 256` with the five flags of a subtraction (42_arithmetic.md R136): CY is the borrow, AC is 1
when the low nibble does not borrow. Nothing else changes. -/
def SubtractsFromA (i : Instr) (b : Byte) (bin : Bool) (s : State) : Prop :=
  ∃ t, exec i s = .next t
    ∧ t.regs.a.toNat = (256 + s.regs.a.toNat - b.toNat - bin.toNat) % 256
    ∧ t.flags = flagsOf t.regs.a
        (decide (b.toNat % 16 + bin.toNat ≤ s.regs.a.toNat % 16))
        (decide (s.regs.a.toNat < b.toNat + bin.toNat))
    ∧ KeptBut [.a] [] s t ∧ t.pc = s.pc ∧ t.sp = s.sp

/-- The flags of the subtraction of b from A, A and everything else unchanged (43_logical.md R153). -/
def ComparesWithA (i : Instr) (b : Byte) (s : State) : Prop :=
  ∃ t, exec i s = .next t
    ∧ t.flags = flagsOf (s.regs.a - b)
        (decide (b.toNat % 16 ≤ s.regs.a.toNat % 16)) (decide (s.regs.a.toNat < b.toNat))
    ∧ (t.flags.z = true ↔ s.regs.a = b)
    ∧ KeptBut [] [] s t ∧ t.pc = s.pc ∧ t.sp = s.sp

/-- `A <- r` with S, Z, P from r, AC as given and CY = 0 (43_logical.md R150 to R152). Nothing else changes. -/
def LogicToA (i : Instr) (r : Byte) (ac : Bool) (s : State) : Prop :=
  ∃ t, exec i s = .next t ∧ t.regs.a = r ∧ t.flags = flagsOf r ac false
    ∧ KeptBut [.a] [] s t ∧ t.pc = s.pc ∧ t.sp = s.sp

/-- `Push16(v)` and then `pc <- target` (10_state.md R18): the high byte at SP-1, the low byte at SP-2, each byte dropped
where it is write protected, SP less 2. Nothing else changes. -/
def Pushes (i : Instr) (v target : Word) (s : State) : Prop :=
  ∃ t, exec i s = .next t ∧ t.pc = target ∧ t.sp = s.sp - 2
    ∧ Stored (s.sp - 1) (v.extractLsb' 8 8) s t ∧ Stored (s.sp - 2) (v.extractLsb' 0 8) s t
    ∧ KeptBut [] [s.sp - 1, s.sp - 2] s t ∧ t.flags = s.flags

/-- A call to `adr` when `taken`, and otherwise nothing at all (46_call_return_rst.md R196 to R203). -/
def CallsWhen (taken : Bool) (i : Instr) (adr : Word) (s : State) : Prop :=
  if taken then Pushes i s.pc adr s else exec i s = .next s

/-- `pc <- Pop16()` when `taken`, and otherwise nothing at all (46_call_return_rst.md R204 to R212; 10_state.md R19). -/
def ReturnsWhen (taken : Bool) (i : Instr) (s : State) : Prop :=
  exec i s = .next
    (if taken then { s with pc := memRead (s.sp + 1) s ++ memRead s.sp s, sp := s.sp + 2 } else s)

/-- `pc <- adr` when `taken`, and otherwise nothing at all (45_branch.md R182 to R189). -/
def JumpsWhen (taken : Bool) (i : Instr) (adr : Word) (s : State) : Prop :=
  exec i s = .next (if taken then { s with pc := adr } else s)

/-- The flags an instruction writes (10_state.md R22). -/
inductive FlagClass where
  | none
  | carryOnly
  | allButCarry
  | all
  deriving DecidableEq, Repr

/-- What an instruction writes beside its destination register. -/
structure Writes where
  /-- The table of flag writers (10_state.md section 4, R22). -/
  flags : FlagClass
  /-- SP (10_state.md R17): `LXI SP`, `INX SP`, `DCX SP`, `SPHL`, every push and every pop. -/
  sp : Bool
  /-- PC otherwise than by fetching (10_state.md R16). -/
  pc : Bool
  /-- Memory (20_memory.md R54, R61). -/
  mem : Bool
  deriving DecidableEq, Repr

/-- No flag, no SP, no PC, no memory. -/
def noSideEffect : Writes := ⟨.none, false, false, false⟩

/-- The writes the spec gives each instruction. -/
def writesOf : Instr → Writes
  | .movRR _ _ => noSideEffect
  | .movRM _ => noSideEffect
  | .movMR _ => { noSideEffect with mem := true }
  | .mviR _ _ => noSideEffect
  | .mviM _ => { noSideEffect with mem := true }
  | .lxi p _ => { noSideEffect with sp := decide (p = .sp) }
  | .lda _ => noSideEffect
  | .sta _ => { noSideEffect with mem := true }
  | .lhld _ => noSideEffect
  | .shld _ => { noSideEffect with mem := true }
  | .ldax _ => noSideEffect
  | .stax _ => { noSideEffect with mem := true }
  | .xchg => noSideEffect
  | .inrR _ => { noSideEffect with flags := .allButCarry }
  | .inrM => { noSideEffect with flags := .allButCarry, mem := true }
  | .dcrR _ => { noSideEffect with flags := .allButCarry }
  | .dcrM => { noSideEffect with flags := .allButCarry, mem := true }
  | .inx p => { noSideEffect with sp := decide (p = .sp) }
  | .dcx p => { noSideEffect with sp := decide (p = .sp) }
  | .dad _ => { noSideEffect with flags := .carryOnly }
  | .add _ => { noSideEffect with flags := .all }
  | .adc _ => { noSideEffect with flags := .all }
  | .sub _ => { noSideEffect with flags := .all }
  | .sbb _ => { noSideEffect with flags := .all }
  | .adi _ => { noSideEffect with flags := .all }
  | .aci _ => { noSideEffect with flags := .all }
  | .sui _ => { noSideEffect with flags := .all }
  | .sbi _ => { noSideEffect with flags := .all }
  | .ana _ => { noSideEffect with flags := .all }
  | .xra _ => { noSideEffect with flags := .all }
  | .ora _ => { noSideEffect with flags := .all }
  | .cmp _ => { noSideEffect with flags := .all }
  | .ani _ => { noSideEffect with flags := .all }
  | .xri _ => { noSideEffect with flags := .all }
  | .ori _ => { noSideEffect with flags := .all }
  | .cpi _ => { noSideEffect with flags := .all }
  | .cma => noSideEffect
  | .stc => { noSideEffect with flags := .carryOnly }
  | .cmc => { noSideEffect with flags := .carryOnly }
  | .rlc => { noSideEffect with flags := .carryOnly }
  | .rrc => { noSideEffect with flags := .carryOnly }
  | .ral => { noSideEffect with flags := .carryOnly }
  | .rar => { noSideEffect with flags := .carryOnly }
  | .daa => { noSideEffect with flags := .all }
  | .jmp _ => { noSideEffect with pc := true }
  | .jnz _ => { noSideEffect with pc := true }
  | .jz _ => { noSideEffect with pc := true }
  | .jnc _ => { noSideEffect with pc := true }
  | .jc _ => { noSideEffect with pc := true }
  | .jpo _ => { noSideEffect with pc := true }
  | .jpe _ => { noSideEffect with pc := true }
  | .jp _ => { noSideEffect with pc := true }
  | .jm _ => { noSideEffect with pc := true }
  | .pchl => { noSideEffect with pc := true }
  | .call _ => { noSideEffect with sp := true, pc := true, mem := true }
  | .cnz _ => { noSideEffect with sp := true, pc := true, mem := true }
  | .cz _ => { noSideEffect with sp := true, pc := true, mem := true }
  | .cnc _ => { noSideEffect with sp := true, pc := true, mem := true }
  | .cc _ => { noSideEffect with sp := true, pc := true, mem := true }
  | .cpo _ => { noSideEffect with sp := true, pc := true, mem := true }
  | .cpe _ => { noSideEffect with sp := true, pc := true, mem := true }
  | .cp _ => { noSideEffect with sp := true, pc := true, mem := true }
  | .cm _ => { noSideEffect with sp := true, pc := true, mem := true }
  | .ret => { noSideEffect with sp := true, pc := true }
  | .rnz => { noSideEffect with sp := true, pc := true }
  | .rz => { noSideEffect with sp := true, pc := true }
  | .rnc => { noSideEffect with sp := true, pc := true }
  | .rc => { noSideEffect with sp := true, pc := true }
  | .rpo => { noSideEffect with sp := true, pc := true }
  | .rpe => { noSideEffect with sp := true, pc := true }
  | .rp => { noSideEffect with sp := true, pc := true }
  | .rm => { noSideEffect with sp := true, pc := true }
  | .rst _ => { noSideEffect with sp := true, pc := true, mem := true }
  | .push _ => { noSideEffect with sp := true, mem := true }
  | .pushPsw => { noSideEffect with sp := true, mem := true }
  | .pop _ => { noSideEffect with sp := true }
  | .popPsw => { noSideEffect with flags := .all, sp := true }
  | .xthl => { noSideEffect with mem := true }
  | .sphl => { noSideEffect with sp := true }
  | .inp _ => noSideEffect
  | .out _ => noSideEffect
  | .nop => noSideEffect
  | .hlt => noSideEffect
  | .di => noSideEffect
  | .ei => noSideEffect
  | .undocNop _ => noSideEffect
  | .undocJmp _ => { noSideEffect with pc := true }
  | .undocRet => { noSideEffect with sp := true, pc := true }
  | .undocCall _ _ => { noSideEffect with sp := true, pc := true, mem := true }

/-- The byte that holds the two decimal digits of a number below 100 (packed BCD). -/
def bcd (n : Nat) : Byte := BitVec.ofNat 8 (n / 10 * 16 + n % 10)

/-- The three bytes from an address, addresses mod 65536: as many as the longest instruction has (30_encoding.md R70). -/
def bytesFrom (adr : Word) (s : State) : List Byte := [memRead adr s, memRead (adr + 1) s, memRead (adr + 2) s]

/-- When `x` stores `v` at `adr`, outside the protected range, and `adr` is one of the next instruction's addresses, the
next step runs the instruction that the bytes at PC decode to with `v` in its place (20_memory.md R60). -/
def FetchedNext (x : Instr) (adr : Word) (v : Byte) (s : State) : Prop :=
  Memory.wf s.mem = true → ¬ (s.params.hltMode = .halt ∧ s.halted = true) →
    ¬ (s.params.romLo ≤ adr ∧ adr ≤ s.params.romHi) →
    ∀ k, k < 3 → adr = s.pc + BitVec.ofNat 16 k →
      ∃ t, exec x s = .next t ∧ t.pc = s.pc
        ∧ ∀ i rest, decode ((bytesFrom s.pc s).set k v) = .ok (i, rest) →
          step t = mapNext (countCycles i t.flags)
            (exec i { t with pc := s.pc + BitVec.ofNat 16 (3 - rest.length) })

/-- An instruction executed `n` times in a row. -/
def execTimes : Nat → Instr → State → Result
  | 0, _, s => .next s
  | n + 1, i, s =>
    match exec i s with
    | .next t => execTimes n i t
    | .fault r => .fault r
    | .refused r => .refused r

/-- `n` steps of the machine answer the next state `t`. -/
def RunsTo (n : Nat) (s t : State) : Prop := Host.Core.run Sys2Proof.core n s = .next t

/-- Two states that differ at most in INTE. -/
def SameButInte (s t : State) : Prop := t = { s with inte := t.inte }

/-- Two states that differ at most in the cycle counter. -/
def SameButCyc (s t : State) : Prop := t = { s with cyc := t.cyc }

end Sys2Proof.Safety
end

