-- ==== Sys2Proof/Certificates/Slice0/Obligations.lean ====
section
/-! DEFINITION. The statements for the provers. Each formalises rules of spec/ named in its docstring; OBLIGATIONS.json lists
them. `exec` starts with PC past the whole instruction (30_encoding.md R76), so "nothing changes" leaves PC at the next
instruction. -/

open Sys2Proof Sys2Proof.Machine Sys2Proof.Safety

/-- In a state that is not stopped by HLT, if the three bytes from PC (addresses mod 65536) decode to i, then i is well
formed and step is exec of i on the state whose PC is moved past i's bytes, followed by the optional cycle count; a
fault or refusal of exec is passed on. (R75, R76, R16.) -/
def Obligations.StepRunsTheDecodedInstruction : Prop :=
  ∀ (s : State) (i : Instr) (rest : List Byte),
    ¬ (s.params.hltMode = .halt ∧ s.halted = true) →
    decode [memRead s.pc s, memRead (s.pc + 1) s, memRead (s.pc + 2) s] = .ok (i, rest) →
    i.wellFormed = true ∧ rest.length ≤ 2
      ∧ step s = mapNext
          (fun t => { t with cyc := if t.params.hasCycleCounter then t.cyc + cyclesOf i s.flags else t.cyc })
          (exec i { s with pc := s.pc + BitVec.ofNat 16 (3 - rest.length) })

/-- Under HLT_MODE = halt with the latch set, step answers the same state, and so does any number of steps: the halted
state is a fixed point. (R75, R238, R273.) -/
def Obligations.HaltedStepChangesNothing : Prop :=
  ∀ (n : Nat) (s : State), s.params.hltMode = .halt → s.halted = true →
    step s = .next s ∧ RunsTo n s s

/-- For every state, step answers a next state; no fault and no refusal is ever answered. (R262.) -/
def Obligations.StepAlwaysReturnsOk : Prop :=
  ∀ s : State, ∃ t, step s = .next t

/-- For every well-formed instruction, with every operand at every value, and any bytes after it, decode of its encoding
answers the instruction and exactly the bytes after it. (30_encoding.md section 4, R78, R79, R80, R81.) -/
def Obligations.DecodeInvertsEncode : Prop :=
  ∀ (i : Instr) (rest : List Byte), i.wellFormed = true → decode (encode i ++ rest) = .ok (i, rest)

/-- If a list of bytes decodes to i with rest left over, then i is well formed and the list is the encoding of i followed
by rest; so each instruction has one encoding and no bit of it is ignored. (30_encoding.md section 4, R84.) -/
def Obligations.EncodeInvertsDecode : Prop :=
  ∀ (bs : List Byte) (i : Instr) (rest : List Byte),
    decode bs = .ok (i, rest) → i.wellFormed = true ∧ encode i ++ rest = bs

/-- Whatever bytes follow, each of the 256 opcode values decodes; it takes three bytes for the 30 opcodes of the
three-byte list, two for the 18 of the two-byte list and one for every other. (R72.) -/
def Obligations.LengthDependsOnOpcodeAlone : Prop :=
  let three : List Byte := [0x01, 0x11, 0x21, 0x31, 0x22, 0x2A, 0x32, 0x3A,
    0xC2, 0xCA, 0xD2, 0xDA, 0xE2, 0xEA, 0xF2, 0xFA, 0xC3, 0xCB,
    0xC4, 0xCC, 0xD4, 0xDC, 0xE4, 0xEC, 0xF4, 0xFC, 0xCD, 0xDD, 0xED, 0xFD]
  let two : List Byte := [0x06, 0x0E, 0x16, 0x1E, 0x26, 0x2E, 0x36, 0x3E,
    0xC6, 0xCE, 0xD6, 0xDE, 0xE6, 0xEE, 0xF6, 0xFE, 0xD3, 0xDB]
  ∀ (op x y : Byte) (rest : List Byte), ∃ i : Instr,
    decode (op :: x :: y :: rest)
      = .ok (i, if op ∈ three then rest else if op ∈ two then y :: rest else x :: y :: rest)

/-- Seventeen encodings written bit by bit from 30_encoding.md, one or more from each of the families 40 to 49, decode to
the instruction the map names. (30_encoding.md section 4.) -/
def Obligations.DecodesWordsWrittenFromTheOpcodeMap : Prop :=
  Encodes [0b01000001] (.movRR .b .c) ∧ Encodes [0b00110110, 0xFF] (.mviM 0xFF)
    ∧ Encodes [0b00100001, 0x34, 0x12] (.lxi (.pair .hl) 0x1234) ∧ Encodes [0b00011010] (.ldax .de)
    ∧ Encodes [0b10111110] (.cmp .mem) ∧ Encodes [0b01110110] .hlt
    ∧ Encodes [0b11011010, 0x50, 0x01] (.jc 0x0150) ∧ Encodes [0b11010111] (.rst 2)
    ∧ Encodes [0b11110001] .popPsw ∧ Encodes [0b11011011, 0x10] (.inp 0x10)
    ∧ Encodes [0b11101101, 0x00, 0x30] (.undocCall 2 0x3000)
    ∧ Encodes [0b00000100] (.inrR .b) ∧ Encodes [0b00101001] (.dad (.pair .hl))
    ∧ Encodes [0b10000000] (.add (.reg .b)) ∧ Encodes [0b11011110, 0x05] (.sbi 0x05)
    ∧ Encodes [0b00000111] .rlc ∧ Encodes [0b00100111] .daa

/-- MOV d,s (opcode 0x40 + 8*ddd + sss) answers the state in which d holds what s held; every other register, the flags,
SP, memory, the ports and the control state are unchanged. (R100.) -/
def Obligations.MovBetweenRegisters : Prop :=
  ∀ (dst src : Reg8) (s : State),
    Encodes [.ofNat 8 (0x40 + 8 * (codeOfReg dst).toNat + (codeOfReg src).toNat)] (.movRR dst src)
      ∧ ∃ t, exec (.movRR dst src) s = .next t ∧ regGet dst t = regGet src s
          ∧ KeptBut [dst] [] s t ∧ SamePcSpFlags s t

/-- MOV d,M loads the byte at HL (HL as before the instruction), LDA the byte at its immediate address (low byte first),
LDAX the byte at BC or DE, into d or A; everything else is unchanged. Each encoding is stated. (R101, R106, R110.) -/
def Obligations.LoadsCopyOneMemoryByte : Prop :=
  (∀ (dst : Reg8) (s : State),
    Encodes [.ofNat 8 (0x46 + 8 * (codeOfReg dst).toNat)] (.movRM dst)
      ∧ ∃ t, exec (.movRM dst) s = .next t ∧ regGet dst t = memRead (s.regs.h ++ s.regs.l) s
          ∧ KeptBut [dst] [] s t ∧ SamePcSpFlags s t)
  ∧ (∀ (lo hi : Byte) (s : State),
    Encodes [0x3A, lo, hi] (.lda (hi ++ lo))
      ∧ ∃ t, exec (.lda (hi ++ lo)) s = .next t ∧ t.regs.a = memRead (hi ++ lo) s
          ∧ KeptBut [.a] [] s t ∧ SamePcSpFlags s t)
  ∧ (∀ s : State,
    Encodes [0x0A] (.ldax .bc) ∧ Encodes [0x1A] (.ldax .de)
      ∧ (∃ t, exec (.ldax .bc) s = .next t ∧ t.regs.a = memRead (s.regs.b ++ s.regs.c) s
          ∧ KeptBut [.a] [] s t ∧ SamePcSpFlags s t)
      ∧ (∃ t, exec (.ldax .de) s = .next t ∧ t.regs.a = memRead (s.regs.d ++ s.regs.e) s
          ∧ KeptBut [.a] [] s t ∧ SamePcSpFlags s t))

/-- MOV M,s and MVI M store at HL, STA at its immediate address, STAX at BC or DE; the byte is dropped where that address
lies in ROM_LO..ROM_HI and the instruction still completes; every other byte and all other state are unchanged. The
value read back is stated for a memory in canonical form (an invariant of the model). Each encoding is stated. (R102,
R104, R107, R111.) -/
def Obligations.StoresWriteOneMemoryByte : Prop :=
  (∀ (src : Reg8) (s : State),
    Encodes [.ofNat 8 (0x70 + (codeOfReg src).toNat)] (.movMR src)
      ∧ ∃ t, exec (.movMR src) s = .next t ∧ Stored (s.regs.h ++ s.regs.l) (regGet src s) s t
          ∧ KeptBut [] [s.regs.h ++ s.regs.l] s t ∧ SamePcSpFlags s t)
  ∧ (∀ (v : Byte) (s : State),
    Encodes [0x36, v] (.mviM v)
      ∧ ∃ t, exec (.mviM v) s = .next t ∧ Stored (s.regs.h ++ s.regs.l) v s t
          ∧ KeptBut [] [s.regs.h ++ s.regs.l] s t ∧ SamePcSpFlags s t)
  ∧ (∀ (lo hi : Byte) (s : State),
    Encodes [0x32, lo, hi] (.sta (hi ++ lo))
      ∧ ∃ t, exec (.sta (hi ++ lo)) s = .next t ∧ Stored (hi ++ lo) s.regs.a s t
          ∧ KeptBut [] [hi ++ lo] s t ∧ SamePcSpFlags s t)
  ∧ (∀ s : State,
    Encodes [0x02] (.stax .bc) ∧ Encodes [0x12] (.stax .de)
      ∧ (∃ t, exec (.stax .bc) s = .next t ∧ Stored (s.regs.b ++ s.regs.c) s.regs.a s t
          ∧ KeptBut [] [s.regs.b ++ s.regs.c] s t ∧ SamePcSpFlags s t)
      ∧ (∃ t, exec (.stax .de) s = .next t ∧ Stored (s.regs.d ++ s.regs.e) s.regs.a s t
          ∧ KeptBut [] [s.regs.d ++ s.regs.e] s t ∧ SamePcSpFlags s t))

/-- MVI d,d8 puts the immediate byte into d. LXI rp,d16 puts the second instruction byte into the low register of the pair
(or the low byte of SP) and the third into the high one. Everything else is unchanged. Each encoding is stated. (R103,
R105.) -/
def Obligations.ImmediateLoads : Prop :=
  (∀ (dst : Reg8) (v : Byte) (s : State),
    Encodes [.ofNat 8 (0x06 + 8 * (codeOfReg dst).toNat), v] (.mviR dst v)
      ∧ ∃ t, exec (.mviR dst v) s = .next t ∧ regGet dst t = v
          ∧ KeptBut [dst] [] s t ∧ SamePcSpFlags s t)
  ∧ (∀ (p : PairSp) (lo hi : Byte) (s : State),
    Encodes [.ofNat 8 (0x01 + 16 * (codeOfPairSp p).toNat), lo, hi] (.lxi p (hi ++ lo))
      ∧ ∃ t, exec (.lxi p (hi ++ lo)) s = .next t
          ∧ (match p with
            | .pair .bc => t.regs.b = hi ∧ t.regs.c = lo ∧ t.sp = s.sp
            | .pair .de => t.regs.d = hi ∧ t.regs.e = lo ∧ t.sp = s.sp
            | .pair .hl => t.regs.h = hi ∧ t.regs.l = lo ∧ t.sp = s.sp
            | .sp => t.sp = hi ++ lo)
          ∧ KeptBut (pairRegs p) [] s t ∧ t.pc = s.pc ∧ t.flags = s.flags)

/-- LHLD loads L from its address and H from the next one (mod 65536); SHLD stores L and H there, each byte dropped on its
own address when protected. Everything else is unchanged. Each encoding is stated. (R108, R109.) -/
def Obligations.LhldAndShldMoveTwoBytes : Prop :=
  (∀ (lo hi : Byte) (s : State),
    Encodes [0x2A, lo, hi] (.lhld (hi ++ lo))
      ∧ ∃ t, exec (.lhld (hi ++ lo)) s = .next t
          ∧ t.regs.l = memRead (hi ++ lo) s ∧ t.regs.h = memRead (hi ++ lo + 1) s
          ∧ KeptBut [.h, .l] [] s t ∧ SamePcSpFlags s t)
  ∧ (∀ (lo hi : Byte) (s : State),
    Encodes [0x22, lo, hi] (.shld (hi ++ lo))
      ∧ ∃ t, exec (.shld (hi ++ lo)) s = .next t
          ∧ Stored (hi ++ lo) s.regs.l s t ∧ Stored (hi ++ lo + 1) s.regs.h s t
          ∧ KeptBut [] [hi ++ lo, hi ++ lo + 1] s t ∧ SamePcSpFlags s t)

/-- XCHG (0xEB) exchanges D with H and E with L, changes nothing else, and executed again gives back the first state.
(R112.) -/
def Obligations.XchgSwapsAndUndoesItself : Prop :=
  ∀ s : State, Encodes [0xEB] .xchg
    ∧ ∃ t, exec .xchg s = .next t
      ∧ t.regs.d = s.regs.h ∧ t.regs.e = s.regs.l ∧ t.regs.h = s.regs.d ∧ t.regs.l = s.regs.e
      ∧ KeptBut [.d, .e, .h, .l] [] s t ∧ SamePcSpFlags s t ∧ exec .xchg t = .next s

/-- INR adds 1 and DCR subtracts 1 mod 256; S, Z, P from the result, AC = 1 when the low nibble was 0xF (INR) or was not 0
(DCR), CY unchanged; everything else is unchanged; INR then DCR of the same register returns its value. Each encoding
is stated. (R120, R122.) -/
def Obligations.IncrementAndDecrementRegister : Prop :=
  (∀ (dst : Reg8) (s : State),
    Encodes [.ofNat 8 (0x04 + 8 * (codeOfReg dst).toNat)] (.inrR dst)
      ∧ ∃ t, exec (.inrR dst) s = .next t
          ∧ (regGet dst t).toNat = ((regGet dst s).toNat + 1) % 256
          ∧ t.flags = flagsOf (regGet dst t) (decide ((regGet dst s).toNat % 16 = 15)) s.flags.cy
          ∧ KeptBut [dst] [] s t ∧ t.pc = s.pc ∧ t.sp = s.sp)
  ∧ (∀ (dst : Reg8) (s : State),
    Encodes [.ofNat 8 (0x05 + 8 * (codeOfReg dst).toNat)] (.dcrR dst)
      ∧ ∃ t, exec (.dcrR dst) s = .next t
          ∧ (regGet dst t).toNat = ((regGet dst s).toNat + 255) % 256
          ∧ t.flags = flagsOf (regGet dst t) (decide ((regGet dst s).toNat % 16 ≠ 0)) s.flags.cy
          ∧ KeptBut [dst] [] s t ∧ t.pc = s.pc ∧ t.sp = s.sp)
  ∧ (∀ (dst : Reg8) (s : State), ∃ t u, exec (.inrR dst) s = .next t ∧ exec (.dcrR dst) t = .next u
      ∧ regGet dst u = regGet dst s)

/-- INR M and DCR M read the byte at HL, store it back plus or minus 1 mod 256 (dropped when protected) and set S, Z, AC,
P from the new value in either case; CY and everything else is unchanged. Each encoding is stated. (R121, R123.) -/
def Obligations.IncrementAndDecrementMemory : Prop :=
  ∀ s : State,
    (Encodes [0x34] .inrM
      ∧ ∃ (t : State) (r : Byte), exec .inrM s = .next t
          ∧ r.toNat = ((memRead (s.regs.h ++ s.regs.l) s).toNat + 1) % 256
          ∧ Stored (s.regs.h ++ s.regs.l) r s t
          ∧ t.flags = flagsOf r (decide ((memRead (s.regs.h ++ s.regs.l) s).toNat % 16 = 15)) s.flags.cy
          ∧ KeptBut [] [s.regs.h ++ s.regs.l] s t ∧ t.pc = s.pc ∧ t.sp = s.sp)
    ∧ (Encodes [0x35] .dcrM
      ∧ ∃ (t : State) (r : Byte), exec .dcrM s = .next t
          ∧ r.toNat = ((memRead (s.regs.h ++ s.regs.l) s).toNat + 255) % 256
          ∧ Stored (s.regs.h ++ s.regs.l) r s t
          ∧ t.flags = flagsOf r (decide ((memRead (s.regs.h ++ s.regs.l) s).toNat % 16 ≠ 0)) s.flags.cy
          ∧ KeptBut [] [s.regs.h ++ s.regs.l] s t ∧ t.pc = s.pc ∧ t.sp = s.sp)

/-- INX adds 1 to and DCX subtracts 1 from BC, DE, HL or SP mod 65536; no flag and nothing else changes. Each encoding is
stated. (R124, R125.) -/
def Obligations.PairIncrementAndDecrement : Prop :=
  (∀ (p : PairSp) (s : State),
    Encodes [.ofNat 8 (0x03 + 16 * (codeOfPairSp p).toNat)] (.inx p)
      ∧ ∃ t, exec (.inx p) s = .next t
          ∧ (pairSpGet p t).toNat = ((pairSpGet p s).toNat + 1) % 65536
          ∧ KeptBut (pairRegs p) [] s t ∧ (p ≠ .sp → t.sp = s.sp) ∧ t.pc = s.pc ∧ t.flags = s.flags)
  ∧ (∀ (p : PairSp) (s : State),
    Encodes [.ofNat 8 (0x0B + 16 * (codeOfPairSp p).toNat)] (.dcx p)
      ∧ ∃ t, exec (.dcx p) s = .next t
          ∧ (pairSpGet p t).toNat = ((pairSpGet p s).toNat + 65535) % 65536
          ∧ KeptBut (pairRegs p) [] s t ∧ (p ≠ .sp → t.sp = s.sp) ∧ t.pc = s.pc ∧ t.flags = s.flags)

/-- DAD rp puts HL + rp mod 65536 into HL, sets CY exactly when the sum exceeds 0xFFFF and clears it otherwise; S, Z, AC,
P and everything else is unchanged. The encoding is stated. (R126.) -/
def Obligations.DadAddsAndWritesOnlyCarry : Prop :=
  ∀ (p : PairSp) (s : State),
    Encodes [.ofNat 8 (0x09 + 16 * (codeOfPairSp p).toNat)] (.dad p)
      ∧ ∃ t, exec (.dad p) s = .next t
          ∧ (pairSpGet (.pair .hl) t).toNat
              = ((pairSpGet (.pair .hl) s).toNat + (pairSpGet p s).toNat) % 65536
          ∧ t.flags = { s.flags with
              cy := decide (0xFFFF < (pairSpGet (.pair .hl) s).toNat + (pairSpGet p s).toNat) }
          ∧ KeptBut [.h, .l] [] s t ∧ t.pc = s.pc ∧ t.sp = s.sp

/-- Pair codes 0, 1, 2, 3 name BC, DE, HL, SP. A pair reads as its first register times 256 plus its second. Writing a
pair puts the high byte into its first register and the low byte into its second and changes no other state, so every
other pair and SP read as before; writing SP changes SP alone. Writing a register outside a pair leaves the pair (and
SP) as it was; writing a register of a pair changes that half of it. (10_state.md section 1, R13, R14.) -/
def Obligations.PairsAreProjectionsOfTheRegisters : Prop :=
  (pairSpOfCode 0 = .pair .bc ∧ pairSpOfCode 1 = .pair .de ∧ pairSpOfCode 2 = .pair .hl ∧ pairSpOfCode 3 = .sp)
  ∧ (∀ x : BitVec 2, codeOfPairSp (pairSpOfCode x) = x)
  ∧ (∀ s : State, (pairSpGet (.pair .bc) s).toNat = s.regs.b.toNat * 256 + s.regs.c.toNat
      ∧ (pairSpGet (.pair .de) s).toNat = s.regs.d.toNat * 256 + s.regs.e.toNat
      ∧ (pairSpGet (.pair .hl) s).toNat = s.regs.h.toNat * 256 + s.regs.l.toNat
      ∧ pairSpGet .sp s = s.sp)
  ∧ (∀ (hi lo : Byte) (s : State),
      pairSpSet (.pair .bc) (hi ++ lo) s = { s with regs := { s.regs with b := hi, c := lo } }
      ∧ pairSpSet (.pair .de) (hi ++ lo) s = { s with regs := { s.regs with d := hi, e := lo } }
      ∧ pairSpSet (.pair .hl) (hi ++ lo) s = { s with regs := { s.regs with h := hi, l := lo } }
      ∧ pairSpSet .sp (hi ++ lo) s = { s with sp := hi ++ lo })
  ∧ (∀ (p q : PairSp) (v : Word) (s : State),
      pairSpGet q (pairSpSet p v s) = if q = p then v else pairSpGet q s)
  ∧ (∀ (p : PairSp) (r : Reg8) (v : Byte) (s : State), r ∉ pairRegs p →
      pairSpGet p (regSet r v s) = pairSpGet p s)
  ∧ (∀ (v : Byte) (s : State), pairGet .bc (regSet .b v s) = v ++ s.regs.c
      ∧ pairGet .bc (regSet .c v s) = s.regs.b ++ v
      ∧ pairGet .de (regSet .d v s) = v ++ s.regs.e ∧ pairGet .de (regSet .e v s) = s.regs.d ++ v
      ∧ pairGet .hl (regSet .h v s) = v ++ s.regs.l ∧ pairGet .hl (regSet .l v s) = s.regs.h ++ v)

/-- Each adds its operand (and CY for ADC and ACI) to A mod 256; S, Z, P from the result, AC the carry out of bit 3, CY
the carry out of bit 7; everything else is unchanged. Each encoding is stated. (R138, R139, R142, R143.) -/
def Obligations.AdditionInstructions : Prop :=
  (∀ (o : Operand8) (s : State),
    Encodes [.ofNat 8 (0x80 + (codeOfOperand o).toNat)] (.add o) ∧ AddsToA (.add o) (operandGet o s) false s)
  ∧ (∀ (o : Operand8) (s : State),
    Encodes [.ofNat 8 (0x88 + (codeOfOperand o).toNat)] (.adc o) ∧ AddsToA (.adc o) (operandGet o s) s.flags.cy s)
  ∧ (∀ (v : Byte) (s : State), Encodes [0xC6, v] (.adi v) ∧ AddsToA (.adi v) v false s)
  ∧ (∀ (v : Byte) (s : State), Encodes [0xCE, v] (.aci v) ∧ AddsToA (.aci v) v s.flags.cy s)

/-- Each subtracts its operand (and CY for SBB and SBI) from A mod 256; S, Z, P from the result, CY the borrow, AC = 1
when the low nibble does not borrow; everything else is unchanged. Each encoding is stated. (R140, R141, R144, R145.) -/
def Obligations.SubtractionInstructions : Prop :=
  (∀ (o : Operand8) (s : State),
    Encodes [.ofNat 8 (0x90 + (codeOfOperand o).toNat)] (.sub o) ∧ SubtractsFromA (.sub o) (operandGet o s) false s)
  ∧ (∀ (o : Operand8) (s : State),
    Encodes [.ofNat 8 (0x98 + (codeOfOperand o).toNat)] (.sbb o)
      ∧ SubtractsFromA (.sbb o) (operandGet o s) s.flags.cy s)
  ∧ (∀ (v : Byte) (s : State), Encodes [0xD6, v] (.sui v) ∧ SubtractsFromA (.sui v) v false s)
  ∧ (∀ (v : Byte) (s : State), Encodes [0xDE, v] (.sbi v) ∧ SubtractsFromA (.sbi v) v s.flags.cy s)

/-- Codes 0 to 5 and 7 select B, C, D, E, H, L, A; code 6 selects the memory byte at HL. (R12.) -/
def Obligations.OperandSelection : Prop :=
  ∀ s : State, operandGet .mem s = memRead (s.regs.h ++ s.regs.l) s
    ∧ operandGet (.reg .b) s = s.regs.b ∧ operandGet (.reg .c) s = s.regs.c
    ∧ operandGet (.reg .d) s = s.regs.d ∧ operandGet (.reg .e) s = s.regs.e
    ∧ operandGet (.reg .h) s = s.regs.h ∧ operandGet (.reg .l) s = s.regs.l
    ∧ operandGet (.reg .a) s = s.regs.a
    ∧ operandOfCode 0 = .reg .b ∧ operandOfCode 1 = .reg .c ∧ operandOfCode 2 = .reg .d
    ∧ operandOfCode 3 = .reg .e ∧ operandOfCode 4 = .reg .h ∧ operandOfCode 5 = .reg .l
    ∧ operandOfCode 6 = .mem ∧ operandOfCode 7 = .reg .a

/-- Sub8(a, b, bin) is (a - b - bin) mod 256, and has the result and AC of Add8(a, ~b, 1 - bin) and the complement of its
carry; CY is the borrow and AC is 1 when the low nibble does not borrow. (R136.) -/
def Obligations.SubtractionIsComplementAddition : Prop :=
  ∀ (x y : Byte) (bin : Bool),
    (sub8 x y bin).r.toNat = (256 + x.toNat - y.toNat - bin.toNat) % 256
      ∧ (sub8 x y bin).r = (add8 x (~~~y) (!bin)).r
      ∧ (sub8 x y bin).cy = !(add8 x (~~~y) (!bin)).cy
      ∧ (sub8 x y bin).ac = (add8 x (~~~y) (!bin)).ac
      ∧ (sub8 x y bin).cy = decide (x.toNat < y.toNat + bin.toNat)
      ∧ (sub8 x y bin).ac = decide (y.toNat % 16 + bin.toNat ≤ x.toNat % 16)

/-- Each puts the bitwise result into A; S, Z, P from it, CY = 0, AC the OR of bit 3 of both operands for ANA and ANI and
0 for the others; everything else is unchanged. Each encoding is stated. (R150, R151, R152, R154, R155, R156.) -/
def Obligations.BitwiseInstructions : Prop :=
  (∀ (o : Operand8) (s : State),
    Encodes [.ofNat 8 (0xA0 + (codeOfOperand o).toNat)] (.ana o)
      ∧ LogicToA (.ana o) (s.regs.a &&& operandGet o s)
          (s.regs.a.getLsbD 3 || (operandGet o s).getLsbD 3) s)
  ∧ (∀ (o : Operand8) (s : State),
    Encodes [.ofNat 8 (0xA8 + (codeOfOperand o).toNat)] (.xra o)
      ∧ LogicToA (.xra o) (s.regs.a ^^^ operandGet o s) false s)
  ∧ (∀ (o : Operand8) (s : State),
    Encodes [.ofNat 8 (0xB0 + (codeOfOperand o).toNat)] (.ora o)
      ∧ LogicToA (.ora o) (s.regs.a ||| operandGet o s) false s)
  ∧ (∀ (v : Byte) (s : State),
    Encodes [0xE6, v] (.ani v)
      ∧ LogicToA (.ani v) (s.regs.a &&& v) (s.regs.a.getLsbD 3 || v.getLsbD 3) s)
  ∧ (∀ (v : Byte) (s : State), Encodes [0xEE, v] (.xri v) ∧ LogicToA (.xri v) (s.regs.a ^^^ v) false s)
  ∧ (∀ (v : Byte) (s : State), Encodes [0xF6, v] (.ori v) ∧ LogicToA (.ori v) (s.regs.a ||| v) false s)

/-- CMP and CPI set S, Z, P from A minus the operand, CY to A < operand, AC to no nibble borrow; Z = 1 exactly when A
equals the operand; A and everything else is unchanged. Each encoding is stated. (R153, R157.) -/
def Obligations.CompareInstructions : Prop :=
  (∀ (o : Operand8) (s : State),
    Encodes [.ofNat 8 (0xB8 + (codeOfOperand o).toNat)] (.cmp o) ∧ ComparesWithA (.cmp o) (operandGet o s) s)
  ∧ (∀ (v : Byte) (s : State), Encodes [0xFE, v] (.cpi v) ∧ ComparesWithA (.cpi v) v s)

/-- CMA puts 255 - A into A, writes no flag, and twice restores the state; STC sets CY and CMC complements it, S, Z, AC, P
unchanged. Nothing else changes. Each encoding is stated. (R158, R159, R160.) -/
def Obligations.ComplementAndCarryInstructions : Prop :=
  ∀ s : State,
    (Encodes [0x2F] .cma ∧ ∃ t, exec .cma s = .next t ∧ t.regs.a.toNat = 255 - s.regs.a.toNat
      ∧ KeptBut [.a] [] s t ∧ SamePcSpFlags s t ∧ exec .cma t = .next s)
    ∧ (Encodes [0x37] .stc ∧ ∃ t, exec .stc s = .next t ∧ t.flags = { s.flags with cy := true }
      ∧ KeptBut [] [] s t ∧ t.pc = s.pc ∧ t.sp = s.sp)
    ∧ (Encodes [0x3F] .cmc ∧ ∃ t, exec .cmc s = .next t
      ∧ t.flags = { s.flags with cy := decide (s.flags.cy.toNat = 0) }
      ∧ KeptBut [] [] s t ∧ t.pc = s.pc ∧ t.sp = s.sp)

/-- Bit by bit: RLC and RRC rotate A within itself, RAL and RAR through CY as a ninth bit; CY gets the bit rotated out; S,
Z, AC, P and everything else is unchanged. Each encoding is stated. (44_rotate_daa.md, R170, R171, R172, R173.) -/
def Obligations.RotateInstructions : Prop :=
  ∀ s : State,
    (Encodes [0x07] .rlc ∧ ∃ t, exec .rlc s = .next t
      ∧ (∀ k, k < 7 → t.regs.a.getLsbD (k + 1) = s.regs.a.getLsbD k)
      ∧ t.regs.a.getLsbD 0 = s.regs.a.getLsbD 7 ∧ t.flags = { s.flags with cy := s.regs.a.getLsbD 7 }
      ∧ KeptBut [.a] [] s t ∧ t.pc = s.pc ∧ t.sp = s.sp)
    ∧ (Encodes [0x0F] .rrc ∧ ∃ t, exec .rrc s = .next t
      ∧ (∀ k, k < 7 → t.regs.a.getLsbD k = s.regs.a.getLsbD (k + 1))
      ∧ t.regs.a.getLsbD 7 = s.regs.a.getLsbD 0 ∧ t.flags = { s.flags with cy := s.regs.a.getLsbD 0 }
      ∧ KeptBut [.a] [] s t ∧ t.pc = s.pc ∧ t.sp = s.sp)
    ∧ (Encodes [0x17] .ral ∧ ∃ t, exec .ral s = .next t
      ∧ (∀ k, k < 7 → t.regs.a.getLsbD (k + 1) = s.regs.a.getLsbD k)
      ∧ t.regs.a.getLsbD 0 = s.flags.cy ∧ t.flags = { s.flags with cy := s.regs.a.getLsbD 7 }
      ∧ KeptBut [.a] [] s t ∧ t.pc = s.pc ∧ t.sp = s.sp)
    ∧ (Encodes [0x1F] .rar ∧ ∃ t, exec .rar s = .next t
      ∧ (∀ k, k < 7 → t.regs.a.getLsbD k = s.regs.a.getLsbD (k + 1))
      ∧ t.regs.a.getLsbD 7 = s.flags.cy ∧ t.flags = { s.flags with cy := s.regs.a.getLsbD 0 }
      ∧ KeptBut [.a] [] s t ∧ t.pc = s.pc ∧ t.sp = s.sp)

/-- Eight RLC (RRC) restore the registers; nine RAL (RAR) restore the whole state; RAL then RAR restores the whole state;
RLC then RRC restores the registers and leaves CY = the original A[7]. (R170, R171, R172, R173.) -/
def Obligations.RepeatedRotatesRestore : Prop :=
  ∀ s : State,
    (∃ t, execTimes 8 .rlc s = .next t ∧ t.regs = s.regs)
    ∧ (∃ t, execTimes 8 .rrc s = .next t ∧ t.regs = s.regs)
    ∧ execTimes 9 .ral s = .next s
    ∧ execTimes 9 .rar s = .next s
    ∧ (∃ t, exec .ral s = .next t ∧ exec .rar t = .next s)
    ∧ (∃ t u, exec .rlc s = .next t ∧ exec .rrc t = .next u
        ∧ u.regs = s.regs ∧ u.flags = { s.flags with cy := s.regs.a.getLsbD 7 })

/-- DAA adds 0x06 when the low nibble exceeds 9 or AC is 1, and 0x60 when the high nibble exceeds 9, or CY is 1, or it is
at least 9 with the low nibble above 9; CY is set with the 0x60 correction and otherwise kept; AC is the carry out of
bit 3 of the correcting addition; S, Z, P from the result; nothing else changes. The encoding is stated.
(44_rotate_daa.md, R174.) -/
def Obligations.DecimalAdjust : Prop :=
  ∀ s : State, Encodes [0x27] .daa
    ∧ ∃ t, exec .daa s = .next t
      ∧ (let lo := s.regs.a.toNat % 16
         let hi := s.regs.a.toNat / 16
         let low : Nat := if 9 < lo ∨ s.flags.ac = true then 0x06 else 0
         let high : Nat := if 9 < hi ∨ s.flags.cy = true ∨ (9 ≤ hi ∧ 9 < lo) then 0x60 else 0
         t.regs.a.toNat = (s.regs.a.toNat + low + high) % 256
           ∧ t.flags = flagsOf t.regs.a (decide (15 < lo + low)) (s.flags.cy || decide (high = 0x60)))
      ∧ KeptBut [.a] [] s t ∧ t.pc = s.pc ∧ t.sp = s.sp

/-- For every A, CY and AC, the single correction gives the A, CY and AC of the two-step form that keeps the first step's
carry. (R174, 44_rotate_daa.md.) -/
def Obligations.DecimalAdjustEqualsTheTwoStepForm : Prop :=
  ∀ (x : Byte) (f : Flags),
    let six : Nat := if 9 < x.toNat % 16 ∨ f.ac = true then 6 else 0
    let first : Nat := (x.toNat + six) % 256
    let carry : Bool := f.cy || decide (255 < x.toNat + six)
    let sixty : Bool := decide (9 < first / 16) || carry
    (daaByte x f).toNat = (first + if sixty then 0x60 else 0) % 256
      ∧ (daaFlags x f).cy = sixty
      ∧ (daaFlags x f).ac = decide (15 < x.toNat % 16 + six)

/-- For all two-digit decimal numbers x and y and either carry-in, ACI of the packed y to the packed x followed by DAA
leaves the packed digits of (x + y + c) mod 100 in A and (x + y + c) div 100 in CY. (95_test_vectors.md section 2.5,
44_rotate_daa.md.) -/
def Obligations.DecimalAdditionIsCorrect : Prop :=
  ∀ (x y : Nat) (s : State), x < 100 → y < 100 → s.regs.a = bcd x →
    ∃ t u, exec (.aci (bcd y)) s = .next t ∧ exec .daa t = .next u
      ∧ u.regs.a = bcd ((x + y + s.flags.cy.toNat) % 100)
      ∧ u.flags.cy = decide (100 ≤ x + y + s.flags.cy.toNat)

/-- JMP sets PC to its address; JNZ, JZ, JNC, JC, JPO, JPE, JP, JM do so exactly when Z = 0, Z = 1, CY = 0, CY = 1, P = 0,
P = 1, S = 0, S = 1, and otherwise change nothing (PC already at the next instruction); PCHL sets PC to HL. No other
state changes. Each encoding is stated. (R181, R182, R183, R184, R185, R186, R187, R188, R189, R190.) -/
def Obligations.JumpInstructions : Prop :=
  ∀ (lo hi : Byte) (s : State),
    Encodes [0xC3, lo, hi] (.jmp (hi ++ lo)) ∧ JumpsWhen true (.jmp (hi ++ lo)) (hi ++ lo) s
    ∧ Encodes [0xC2, lo, hi] (.jnz (hi ++ lo)) ∧ JumpsWhen (!s.flags.z) (.jnz (hi ++ lo)) (hi ++ lo) s
    ∧ Encodes [0xCA, lo, hi] (.jz (hi ++ lo)) ∧ JumpsWhen (s.flags.z) (.jz (hi ++ lo)) (hi ++ lo) s
    ∧ Encodes [0xD2, lo, hi] (.jnc (hi ++ lo)) ∧ JumpsWhen (!s.flags.cy) (.jnc (hi ++ lo)) (hi ++ lo) s
    ∧ Encodes [0xDA, lo, hi] (.jc (hi ++ lo)) ∧ JumpsWhen (s.flags.cy) (.jc (hi ++ lo)) (hi ++ lo) s
    ∧ Encodes [0xE2, lo, hi] (.jpo (hi ++ lo)) ∧ JumpsWhen (!s.flags.p) (.jpo (hi ++ lo)) (hi ++ lo) s
    ∧ Encodes [0xEA, lo, hi] (.jpe (hi ++ lo)) ∧ JumpsWhen (s.flags.p) (.jpe (hi ++ lo)) (hi ++ lo) s
    ∧ Encodes [0xF2, lo, hi] (.jp (hi ++ lo)) ∧ JumpsWhen (!s.flags.s) (.jp (hi ++ lo)) (hi ++ lo) s
    ∧ Encodes [0xFA, lo, hi] (.jm (hi ++ lo)) ∧ JumpsWhen (s.flags.s) (.jm (hi ++ lo)) (hi ++ lo) s
    ∧ Encodes [0xE9] .pchl ∧ JumpsWhen true .pchl (s.regs.h ++ s.regs.l) s

/-- When the bytes at PC are a JMP to PC itself and no cycle counter is kept, step answers the same state. (R181, R292.) -/
def Obligations.JumpToItselfIsAFixedPoint : Prop :=
  ∀ (lo hi : Byte) (s : State), s.pc = hi ++ lo → s.params.hasCycleCounter = false →
    memRead s.pc s = 0xC3 → memRead (s.pc + 1) s = lo → memRead (s.pc + 2) s = hi →
    step s = .next s

/-- When MOV M,s, MVI M, STA, STAX, INR M or DCR M stores any byte at the first, second or third address from PC (the next
instruction's bytes, addresses mod 65536), outside the protected range, the next step runs the instruction that the
bytes at PC decode to with the stored byte in its place. So STA of 0x76 onto the next instruction's address makes the
next step halt (what HLT does is the spec's decision D1, log entry 5). The memory is in canonical form (an invariant
of the model). (R60, 95_test_vectors.md section 2.12.) -/
def Obligations.SelfModifiedByteIsFetchedNext : Prop :=
  (∀ (src : Reg8) (s : State), FetchedNext (.movMR src) (s.regs.h ++ s.regs.l) (regGet src s) s)
  ∧ (∀ (v : Byte) (s : State), FetchedNext (.mviM v) (s.regs.h ++ s.regs.l) v s)
  ∧ (∀ (adr : Word) (s : State), FetchedNext (.sta adr) adr s.regs.a s)
  ∧ (∀ s : State, FetchedNext (.stax .bc) (s.regs.b ++ s.regs.c) s.regs.a s
      ∧ FetchedNext (.stax .de) (s.regs.d ++ s.regs.e) s.regs.a s)
  ∧ (∀ s : State, FetchedNext .inrM (s.regs.h ++ s.regs.l) (memRead (s.regs.h ++ s.regs.l) s + 1) s
      ∧ FetchedNext .dcrM (s.regs.h ++ s.regs.l) (memRead (s.regs.h ++ s.regs.l) s - 1) s)
  ∧ (∀ s : State, Memory.wf s.mem = true → s.params.hltMode = .halt → s.halted = false →
      ¬ (s.params.romLo ≤ s.pc ∧ s.pc ≤ s.params.romHi) → s.regs.a = 0x76 →
      ∃ t u, exec (.sta s.pc) s = .next t ∧ step t = .next u ∧ u.halted = true ∧ u.pc = s.pc + 1)

/-- CALL stores the high byte of PC (the next instruction's address) at SP-1 and the low byte at SP-2, each dropped where
protected, subtracts 2 from SP and sets PC to its address; the conditional calls do exactly that when their condition
holds and otherwise change nothing at all. No flag, register or other byte changes. Each encoding is stated. (R195,
R196, R197, R198, R199, R200, R201, R202, R203.) -/
def Obligations.CallInstructions : Prop :=
  ∀ (lo hi : Byte) (s : State),
    Encodes [0xCD, lo, hi] (.call (hi ++ lo)) ∧ Pushes (.call (hi ++ lo)) s.pc (hi ++ lo) s
    ∧ Encodes [0xC4, lo, hi] (.cnz (hi ++ lo)) ∧ CallsWhen (!s.flags.z) (.cnz (hi ++ lo)) (hi ++ lo) s
    ∧ Encodes [0xCC, lo, hi] (.cz (hi ++ lo)) ∧ CallsWhen (s.flags.z) (.cz (hi ++ lo)) (hi ++ lo) s
    ∧ Encodes [0xD4, lo, hi] (.cnc (hi ++ lo)) ∧ CallsWhen (!s.flags.cy) (.cnc (hi ++ lo)) (hi ++ lo) s
    ∧ Encodes [0xDC, lo, hi] (.cc (hi ++ lo)) ∧ CallsWhen (s.flags.cy) (.cc (hi ++ lo)) (hi ++ lo) s
    ∧ Encodes [0xE4, lo, hi] (.cpo (hi ++ lo)) ∧ CallsWhen (!s.flags.p) (.cpo (hi ++ lo)) (hi ++ lo) s
    ∧ Encodes [0xEC, lo, hi] (.cpe (hi ++ lo)) ∧ CallsWhen (s.flags.p) (.cpe (hi ++ lo)) (hi ++ lo) s
    ∧ Encodes [0xF4, lo, hi] (.cp (hi ++ lo)) ∧ CallsWhen (!s.flags.s) (.cp (hi ++ lo)) (hi ++ lo) s
    ∧ Encodes [0xFC, lo, hi] (.cm (hi ++ lo)) ∧ CallsWhen (s.flags.s) (.cm (hi ++ lo)) (hi ++ lo) s

/-- RET sets PC to the word at SP (low byte at SP, high byte at SP+1, addresses mod 65536) and adds 2 to SP; the
conditional returns do exactly that when their condition holds and otherwise change nothing at all. No other state
changes. Each encoding is stated. (R204, R205, R206, R207, R208, R209, R210, R211, R212.) -/
def Obligations.ReturnInstructions : Prop :=
  ∀ s : State, Encodes [0xC9] .ret ∧ ReturnsWhen true .ret s
    ∧ Encodes [0xC0] .rnz ∧ ReturnsWhen (!s.flags.z) .rnz s
    ∧ Encodes [0xC8] .rz ∧ ReturnsWhen (s.flags.z) .rz s
    ∧ Encodes [0xD0] .rnc ∧ ReturnsWhen (!s.flags.cy) .rnc s
    ∧ Encodes [0xD8] .rc ∧ ReturnsWhen (s.flags.cy) .rc s
    ∧ Encodes [0xE0] .rpo ∧ ReturnsWhen (!s.flags.p) .rpo s
    ∧ Encodes [0xE8] .rpe ∧ ReturnsWhen (s.flags.p) .rpe s
    ∧ Encodes [0xF0] .rp ∧ ReturnsWhen (!s.flags.s) .rp s
    ∧ Encodes [0xF8] .rm ∧ ReturnsWhen (s.flags.s) .rm s

/-- RST n (0xC7 + 8n) pushes PC and jumps to n * 8; flags, INTE and everything else is unchanged. (R216.) -/
def Obligations.RestartCallsItsVector : Prop :=
  ∀ (n : BitVec 3) (s : State),
    Encodes [.ofNat 8 (0xC7 + 8 * n.toNat)] (.rst n)
      ∧ Pushes (.rst n) s.pc (.ofNat 16 (8 * n.toNat)) s

/-- With both stack bytes outside the protected range, CALL to adr followed by the RET fetched there leaves PC at the
instruction after the CALL, SP as it was, and all other state but the two stack bytes unchanged. (R213,
95_test_vectors.md section 1.) -/
def Obligations.CallThenReturnComesBack : Prop :=
  ∀ (adr : Word) (s : State), Memory.wf s.mem = true →
    ¬ (s.params.romLo ≤ s.sp - 1 ∧ s.sp - 1 ≤ s.params.romHi) →
    ¬ (s.params.romLo ≤ s.sp - 2 ∧ s.sp - 2 ≤ s.params.romHi) →
    ∃ t u, exec (.call adr) s = .next t ∧ exec .ret { t with pc := adr + 1 } = .next u
      ∧ u.pc = s.pc ∧ u.sp = s.sp ∧ u.flags = s.flags ∧ KeptBut [] [s.sp - 1, s.sp - 2] s u

/-- PUSH stores the high register at SP-1 and the low register at SP-2 (for PSW: A, and the flag byte S Z 0 AC 0 P 1 CY),
each dropped where protected, and subtracts 2 from SP; no flag, register or other byte changes. Each encoding is
stated. (R220, R222.) -/
def Obligations.PushInstructions : Prop :=
  (∀ s : State, Encodes [0xC5] (.push .bc) ∧ Pushes (.push .bc) (s.regs.b ++ s.regs.c) s.pc s)
  ∧ (∀ s : State, Encodes [0xD5] (.push .de) ∧ Pushes (.push .de) (s.regs.d ++ s.regs.e) s.pc s)
  ∧ (∀ s : State, Encodes [0xE5] (.push .hl) ∧ Pushes (.push .hl) (s.regs.h ++ s.regs.l) s.pc s)
  ∧ (∀ s : State, Encodes [0xF5] .pushPsw
      ∧ Pushes .pushPsw (s.regs.a ++ BitVec.ofNat 8 (s.flags.s.toNat * 128 + s.flags.z.toNat * 64
          + s.flags.ac.toNat * 16 + s.flags.p.toNat * 4 + 2 + s.flags.cy.toNat)) s.pc s)

/-- POP loads the low register from SP and the high register from SP+1 and adds 2 to SP; POP PSW loads A from SP+1 and S,
Z, AC, P, CY from bits 7, 6, 4, 2, 0 of the byte at SP. Memory and everything else is unchanged. Each encoding is
stated. (R221, R224.) -/
def Obligations.PopInstructions : Prop :=
  (∀ (p : Pair) (s : State), Encodes [.ofNat 8 (0xC1 + 16 * (codeOfPair p).toNat)] (.pop p)
      ∧ ∃ t, exec (.pop p) s = .next t
          ∧ pairGet p t = memRead (s.sp + 1) s ++ memRead s.sp s
          ∧ t.sp = s.sp + 2 ∧ KeptBut (pairRegs (.pair p)) [] s t ∧ t.pc = s.pc ∧ t.flags = s.flags)
  ∧ (∀ s : State, Encodes [0xF1] .popPsw
      ∧ ∃ t, exec .popPsw s = .next t ∧ t.regs.a = memRead (s.sp + 1) s
          ∧ t.flags = ⟨(memRead s.sp s).getLsbD 7, (memRead s.sp s).getLsbD 6, (memRead s.sp s).getLsbD 4,
              (memRead s.sp s).getLsbD 2, (memRead s.sp s).getLsbD 0⟩
          ∧ t.sp = s.sp + 2 ∧ KeptBut [.a] [] s t ∧ t.pc = s.pc)

/-- With both stack bytes outside the protected range, PUSH rp then POP rp leaves every register, the flags and SP
unchanged, and so does PUSH PSW then POP PSW. (R221, R224, 95_test_vectors.md section 1.) -/
def Obligations.PushThenPopRestores : Prop :=
  ∀ (p : Pair) (s : State), Memory.wf s.mem = true →
    ¬ (s.params.romLo ≤ s.sp - 1 ∧ s.sp - 1 ≤ s.params.romHi) →
    ¬ (s.params.romLo ≤ s.sp - 2 ∧ s.sp - 2 ≤ s.params.romHi) →
    (∃ t u, exec (.push p) s = .next t ∧ exec (.pop p) t = .next u
      ∧ u.regs = s.regs ∧ u.sp = s.sp ∧ u.flags = s.flags)
    ∧ (∃ t u, exec .pushPsw s = .next t ∧ exec .popPsw t = .next u
      ∧ u.regs = s.regs ∧ u.sp = s.sp ∧ u.flags = s.flags)

/-- XTHL loads L from SP and H from SP+1 (bytes as before the instruction) and stores the old L and H there, dropped where
protected, with SP unchanged; SPHL sets SP to HL. Nothing else changes. Each encoding is stated. (R225, R226.) -/
def Obligations.XthlAndSphl : Prop :=
  ∀ s : State,
    (Encodes [0xE3] .xthl ∧ ∃ t, exec .xthl s = .next t
      ∧ t.regs.l = memRead s.sp s ∧ t.regs.h = memRead (s.sp + 1) s
      ∧ Stored s.sp s.regs.l s t ∧ Stored (s.sp + 1) s.regs.h s t
      ∧ KeptBut [.h, .l] [s.sp, s.sp + 1] s t ∧ SamePcSpFlags s t)
    ∧ (Encodes [0xF9] .sphl ∧ exec .sphl s = .next { s with sp := s.regs.h ++ s.regs.l })

/-- With both stack bytes outside the protected range and memory in canonical form, XTHL twice gives back the state.
(R225, 47_stack.md.) -/
def Obligations.XthlTwiceRestores : Prop :=
  ∀ s : State, Memory.wf s.mem = true →
    ¬ (s.params.romLo ≤ s.sp ∧ s.sp ≤ s.params.romHi) →
    ¬ (s.params.romLo ≤ s.sp + 1 ∧ s.sp + 1 ≤ s.params.romHi) →
    ∃ t, exec .xthl s = .next t ∧ exec .xthl t = .next s

/-- PackPSW is S*128 + Z*64 + AC*16 + P*4 + 2 + CY with bits 5 and 3 zero and bit 1 one; unpacking it gives the flags
back; packing an unpacked byte keeps its bits 7, 6, 4, 2, 0 and sets bits 5, 3, 1 to 0, 0, 1. (R26, R27.) -/
def Obligations.PswPackAndUnpack : Prop :=
  (∀ f : Flags, (packPsw f).toNat
      = f.s.toNat * 128 + f.z.toNat * 64 + f.ac.toNat * 16 + f.p.toNat * 4 + 2 + f.cy.toNat
    ∧ (packPsw f).getLsbD 5 = false ∧ (packPsw f).getLsbD 3 = false ∧ (packPsw f).getLsbD 1 = true
    ∧ unpackPsw (packPsw f) = f)
  ∧ (∀ v : Byte, packPsw (unpackPsw v) = (v &&& 0xD5) ||| 0x02)
  ∧ packPsw ⟨false, false, false, false, false⟩ = 0x02 ∧ packPsw ⟨true, true, true, true, true⟩ = 0xD7

/-- For every byte, parity is 1 exactly when its number of 1 bits is even, which is the complement of the exclusive-or of
its bits. (R23.) -/
def Obligations.ParityCountsOneBits : Prop :=
  (∀ v : Byte, parity v = true ↔ ones v % 2 = 0)
  ∧ (∀ v : Byte, parity v = !(v.getLsbD 0 ^^ v.getLsbD 1 ^^ v.getLsbD 2 ^^ v.getLsbD 3
      ^^ v.getLsbD 4 ^^ v.getLsbD 5 ^^ v.getLsbD 6 ^^ v.getLsbD 7))

/-- IN puts in[p] into A and changes nothing else; OUT stores A in out[p], and in in[p] when PORT_LOOPBACK[p] = 1, and
changes nothing else, write protection not applying. On a loopback port IN after OUT puts the byte OUT stored into A,
whatever A has become in between. The value read back is stated for banks in canonical form (an invariant of the
model). Each encoding is stated. (R235, R236.) -/
def Obligations.InAndOut : Prop :=
  (∀ (n : Byte) (s : State), Encodes [0xDB, n] (.inp n)
    ∧ ∃ t, exec (.inp n) s = .next t ∧ t.regs.a = portRead n s ∧ KeptBut [.a] [] s t ∧ SamePcSpFlags s t)
  ∧ (∀ (n : Byte) (s : State), Encodes [0xD3, n] (.out n)
    ∧ ∃ t, exec (.out n) s = .next t
      ∧ (PortBank.wf s.outPorts = true → outPortRead n t = s.regs.a)
      ∧ (PortBank.wf s.inPorts = true →
          portRead n t = if s.params.portLoopback.getLsbD n.toNat then s.regs.a else portRead n s)
      ∧ (∀ k, k ≠ n → portRead k t = portRead k s ∧ outPortRead k t = outPortRead k s)
      ∧ t.regs = s.regs ∧ t.mem = s.mem ∧ SamePcSpFlags s t
      ∧ t.inte = s.inte ∧ t.halted = s.halted ∧ t.cyc = s.cyc ∧ t.params = s.params)
  ∧ (∀ (n : Byte) (s : State), PortBank.wf s.inPorts = true → s.params.portLoopback.getLsbD n.toNat = true →
    ∃ t, exec (.out n) s = .next t
      ∧ ∀ x : Byte, ∃ u, exec (.inp n) (regSet .a x t) = .next u ∧ u.regs.a = s.regs.a)

/-- NOP changes nothing (PC already past it); HLT sets the halt latch under HLT_MODE = halt and is NOP under HLT_MODE =
nop; DI clears and EI sets INTE at once; nothing else changes. Each encoding is stated. The effect of HLT is no
sentence of the source but the spec's own decision D1 (log entry 5), and that EI acts at once is its decision D15 (log
entry 10). (R237, R239, 48_io_control.md, 92_eei_decisions.md.) -/
def Obligations.MachineControlInstructions : Prop :=
  ∀ s : State,
    (Encodes [0x00] .nop ∧ exec .nop s = .next s)
    ∧ (Encodes [0x76] .hlt
        ∧ (s.params.hltMode = .halt → exec .hlt s = .next { s with halted := true })
        ∧ (s.params.hltMode = .nop → exec .hlt s = .next s))
    ∧ (Encodes [0xF3] .di ∧ exec .di s = .next { s with inte := false })
    ∧ (Encodes [0xFB] .ei ∧ exec .ei s = .next { s with inte := true })

/-- 0x08, 0x10, 0x18, 0x20, 0x28, 0x30, 0x38 change nothing beyond the fetch; 0xCB jumps as JMP; 0xD9 returns as RET;
0xDD, 0xED, 0xFD call as CALL; each completes. (R245, R246, R247, R248.) -/
def Obligations.UndocumentedOpcodes : Prop :=
  (∀ (n : BitVec 3) (s : State), n ≠ 0 →
      Encodes [.ofNat 8 (8 * n.toNat)] (.undocNop n) ∧ exec (.undocNop n) s = .next s)
  ∧ (∀ (lo hi : Byte) (s : State),
      Encodes [0xCB, lo, hi] (.undocJmp (hi ++ lo)) ∧ exec (.undocJmp (hi ++ lo)) s = .next { s with pc := hi ++ lo })
  ∧ (∀ s : State, Encodes [0xD9] .undocRet ∧ ReturnsWhen true .undocRet s)
  ∧ (∀ (x : BitVec 2) (lo hi : Byte) (s : State), x ≠ 0 →
      Encodes [.ofNat 8 (0xCD + 16 * x.toNat), lo, hi] (.undocCall x (hi ++ lo))
        ∧ Pushes (.undocCall x (hi ++ lo)) s.pc (hi ++ lo) s)

/-- Every instruction completes; data transfer, INX, DCX, CMA, branch, call, return, stack (but POP PSW), I/O and control
instructions write no flag; rotates, DAD, STC, CMC write CY only; INR and DCR never write CY. (10_state.md section 4,
R22.) -/
def Obligations.OnlyListedInstructionsWriteFlags : Prop :=
  ∀ (i : Instr) (s : State), ∃ t, exec i s = .next t
    ∧ match (writesOf i).flags with
      | .none => t.flags = s.flags
      | .carryOnly => t.flags = { s.flags with cy := t.flags.cy }
      | .allButCarry => t.flags.cy = s.flags.cy
      | .all => True

/-- SP is written only by LXI SP, INX SP, DCX SP, SPHL, pushes and pops (calls, returns and RST among them); PC, beyond
the fetch, only by jumps, calls, returns, RST, PCHL and their aliases. (10_state.md section 3, R16, R17.) -/
def Obligations.OnlyListedInstructionsWriteSpAndPc : Prop :=
  ∀ (i : Instr) (s : State), ∃ t, exec i s = .next t
    ∧ ((writesOf i).sp = false → t.sp = s.sp) ∧ ((writesOf i).pc = false → t.pc = s.pc)

/-- Memory is written only by the storing instructions, the port banks only by OUT, INTE only by EI and DI, the halt latch
only by HLT; no instruction writes the cycle counter or a parameter. The halt latch is the spec's own decision D1
(R30, log entry 5); that the optional counter is kept, and counted by step outside every instruction, is R31 and log
entry 7; the parameters in State are log entry 1. (20_memory.md section 8, R28, R29, R30, R31, R61.) -/
def Obligations.OnlyListedInstructionsWriteMemoryPortsAndControl : Prop :=
  ∀ (i : Instr) (s : State), ∃ t, exec i s = .next t
    ∧ ((writesOf i).mem = false → t.mem = s.mem)
    ∧ ((∀ n, i ≠ .out n) → t.inPorts = s.inPorts ∧ t.outPorts = s.outPorts)
    ∧ (i ≠ .ei → i ≠ .di → t.inte = s.inte)
    ∧ (i ≠ .hlt → t.halted = s.halted)
    ∧ t.cyc = s.cyc ∧ t.params = s.params

/-- A step that changes INTE fetched 0xF3 (and cleared it) or 0xFB (and set it); reset() clears it; no other host call
changes it. (10_state.md section 6, R28, R265.) -/
def Obligations.InteChangesOnlyByEiDiOrReset : Prop :=
  (∀ s t : State, step s = .next t → t.inte ≠ s.inte →
      (memRead s.pc s = 0xF3 ∧ t.inte = false) ∨ (memRead s.pc s = 0xFB ∧ t.inte = true))
  ∧ (∀ s : State, (hostCall .reset s).inte = false)
  ∧ (∀ (x : HostCall) (s : State), x ≠ .reset → x ≠ .step → (hostCall x s).inte = s.inte)

/-- Two states that differ at most in INTE step to two states that differ at most in INTE. (60_exceptions.md section 2,
R265.) -/
def Obligations.InteHasNoEffectOnExecution : Prop :=
  ∀ s t : State, SameButInte s t → ∃ s' t', step s = .next s' ∧ step t = .next t' ∧ SameButInte s' t'

/-- Two states that differ at most in the cycle counter step to two states that differ at most in it. (10_state.md section
6, R31.) -/
def Obligations.CycleCounterInfluencesNothing : Prop :=
  ∀ s t : State, SameButCyc s t → ∃ s' t', step s = .next s' ∧ step t = .next t' ∧ SameButCyc s' t'

/-- From every state in which memory and both port banks are in canonical form, the halt latch is clear under HLT_MODE =
nop and the cycle counter is 0 without HAS_CYCLE_COUNTER, a step leads to such a state. The canonical form is the
model's own choice (log entries 3 and 4), and so is the unused latch or counter standing clear where the block has
none (log entries 5 and 7). (10_state.md section 6.) -/
def Obligations.StepKeepsTheStateWellFormed : Prop :=
  ∀ s t : State, inv s = true → step s = .next t → inv t = true

/-- The reset state and every created block (any parameters, any canonical MEM_INIT, IN_INIT, OUT_INIT) meet the
invariant, and every sequence of reset, load, step, write_port and set_input keeps it. The calls and the creation
state are the spec's; the invariant is the model's own choice: the canonical form (log entries 3 and 4) and the unused
latch or counter standing clear where the block has none (log entries 5 and 7). (10_state.md section 6,
70_reset_and_hazards.md section 1, 70_reset_and_hazards.md section 2.) -/
def Obligations.HostRunsKeepTheStateWellFormed : Prop :=
  inv State.reset = true
    ∧ (∀ (p : Config.Params) (m : Memory) (x y : PortBank), Memory.wf m = true → PortBank.wf x = true →
        PortBank.wf y = true → inv (State.created p m x y) = true)
    ∧ ∀ (calls : List HostCall) (s : State), inv s = true → inv (hostRun calls s) = true

/-- Whatever instructions run and whatever else the host does, a byte inside ROM_LO..ROM_HI keeps its value as long as
load is not called. (R45, 20_memory.md section 2, R46.) -/
def Obligations.ProtectedBytesChangeOnlyByLoad : Prop :=
  ∀ (calls : List HostCall) (s : State) (adr : Word),
    s.params.romLo ≤ adr → adr ≤ s.params.romHi →
    (∀ x ∈ calls, ∀ bytes origin, x ≠ .load bytes origin) →
    memRead adr (hostRun calls s) = memRead adr s

/-- load puts byte i at (origin + i) mod 65536 even inside the protected range and changes no other byte and no other
state; an image longer than 65536 bytes is refused and changes nothing. The bytes read back are stated for a memory in
canonical form. (R281.) -/
def Obligations.LoadPlacesTheImage : Prop :=
  (∀ (bytes : List Byte) (origin : Word) (s : State), Memory.wf s.mem = true → bytes.length ≤ 65536 →
    ∃ t, hostLoad bytes origin s = some t
      ∧ (∀ k (h : k < bytes.length), memRead (origin + BitVec.ofNat 16 k) t = bytes[k])
      ∧ (∀ adr, (∀ k, k < bytes.length → adr ≠ origin + BitVec.ofNat 16 k) → memRead adr t = memRead adr s)
      ∧ { t with mem := s.mem } = s)
  ∧ (∀ (bytes : List Byte) (origin : Word) (s : State), 65536 < bytes.length →
      hostLoad bytes origin s = none ∧ hostCall (.load bytes origin) s = s)

/-- reset() from any state leaves every register, PC, SP, flag, INTE, the halt latch and the counter zero, memory, ports
and parameters unchanged; a block just created is in that state with the given MEM_INIT, IN_INIT and OUT_INIT; the PSW
byte then reads 0x02. The registers, flags, PC, SP and INTE are the source's; that reset() clears the latch and the
counter and keeps memory and ports, and that creation is reset, are the spec's own decisions (D4, D5, D13, D19; log
entries 3, 4, 5 and 10). The model's own choice is that the latch under HLT_MODE = nop and the counter of a block that
keeps none are cleared too (log entries 5 and 7), and that the parameters stand in State and are kept (log entry 1).
(R32, 10_state.md section 7, 70_reset_and_hazards.md section 1, 70_reset_and_hazards.md section 2.) -/
def Obligations.ResetClearsRegistersAndKeepsMemory : Prop :=
  (∀ s : State, hostCall .reset s = ⟨⟨0, 0, 0, 0, 0, 0, 0⟩, 0x0000, 0x0000, ⟨false, false, false, false, false⟩,
      false, false, 0, s.mem, s.inPorts, s.outPorts, s.params⟩)
  ∧ (∀ (p : Config.Params) (m : Memory) (x y : PortBank),
      State.created p m x y = ⟨⟨0, 0, 0, 0, 0, 0, 0⟩, 0x0000, 0x0000, ⟨false, false, false, false, false⟩,
        false, false, 0, m, x, y, p⟩)
  ∧ hostRead .psw State.reset = some 0x02
  ∧ (∀ s : State, hostRead .psw (hostCall .reset s) = some 0x02)

/-- read_port returns in[n mod 256]; set_input stores v mod 256 in in[n mod 256] and changes nothing else; write_port
stores v mod 256 in out[n mod 256], and in in[n mod 256] on a loopback port, and changes nothing else. The bytes read
back are stated for banks in canonical form. (70_reset_and_hazards.md section 1, R285, R286.) -/
def Obligations.PortCallsOfTheHost : Prop :=
  ∀ (n v : Nat) (s : State),
    hostReadPort n s = portRead (BitVec.ofNat 8 (n % 256)) s
    ∧ (PortBank.wf s.inPorts = true → hostReadPort n (hostSetInput n v s) = BitVec.ofNat 8 (v % 256))
    ∧ (∀ k : Byte, k.toNat ≠ n % 256 → portRead k (hostSetInput n v s) = portRead k s)
    ∧ { hostSetInput n v s with inPorts := s.inPorts } = s
    ∧ (PortBank.wf s.outPorts = true →
        outPortRead (BitVec.ofNat 8 (n % 256)) (hostWritePort n v s) = BitVec.ofNat 8 (v % 256))
    ∧ (PortBank.wf s.inPorts = true → hostReadPort n (hostWritePort n v s)
        = if s.params.portLoopback.getLsbD (n % 256) then BitVec.ofNat 8 (v % 256) else hostReadPort n s)
    ∧ (∀ k : Byte, k.toNat ≠ n % 256 → portRead k (hostWritePort n v s) = portRead k s
        ∧ outPortRead k (hostWritePort n v s) = outPortRead k s)
    ∧ { hostWritePort n v s with inPorts := s.inPorts, outPorts := s.outPorts } = s

/-- The canonical form is a normal form: memories in it that agree on every address are the same list. The form is the
model's (assumption log 3). (20_memory.md section 1, R40.) -/
def Obligations.EqualReadsMeanEqualMemories : Prop :=
  ∀ m m' : Memory, Memory.wf m = true → Memory.wf m' = true →
    (∀ k, k < 65536 → cellRead m k = cellRead m' k) → m = m'
end

