-- ==== Sys2Proof/Laws/State.lean ====
section
/-! SUPPORT. Every field of the state after every named update: one lemma per field per update, true by rfl, so that a
proof about an instruction never unfolds a record update. -/

namespace Sys2Proof.Machine

/-! ## regSet -/

@[simp] theorem regSet_regs (r : Reg8) (v : Byte) (s : State) : (regSet r v s).regs = regsWith r v s.regs := rfl
@[simp] theorem regSet_pc (r : Reg8) (v : Byte) (s : State) : (regSet r v s).pc = s.pc := rfl
@[simp] theorem regSet_sp (r : Reg8) (v : Byte) (s : State) : (regSet r v s).sp = s.sp := rfl
@[simp] theorem regSet_flags (r : Reg8) (v : Byte) (s : State) : (regSet r v s).flags = s.flags := rfl
@[simp] theorem regSet_inte (r : Reg8) (v : Byte) (s : State) : (regSet r v s).inte = s.inte := rfl
@[simp] theorem regSet_halted (r : Reg8) (v : Byte) (s : State) : (regSet r v s).halted = s.halted := rfl
@[simp] theorem regSet_cyc (r : Reg8) (v : Byte) (s : State) : (regSet r v s).cyc = s.cyc := rfl
@[simp] theorem regSet_mem (r : Reg8) (v : Byte) (s : State) : (regSet r v s).mem = s.mem := rfl
@[simp] theorem regSet_inPorts (r : Reg8) (v : Byte) (s : State) : (regSet r v s).inPorts = s.inPorts := rfl
@[simp] theorem regSet_outPorts (r : Reg8) (v : Byte) (s : State) : (regSet r v s).outPorts = s.outPorts := rfl
@[simp] theorem regSet_params (r : Reg8) (v : Byte) (s : State) : (regSet r v s).params = s.params := rfl

/-! ## pairSet -/

@[simp] theorem pairSet_regs (p : Pair) (v : Word) (s : State) :
    (pairSet p v s).regs = regsWith (pairLo p) (loByte v) (regsWith (pairHi p) (hiByte v) s.regs) := rfl
@[simp] theorem pairSet_pc (p : Pair) (v : Word) (s : State) : (pairSet p v s).pc = s.pc := rfl
@[simp] theorem pairSet_sp (p : Pair) (v : Word) (s : State) : (pairSet p v s).sp = s.sp := rfl
@[simp] theorem pairSet_flags (p : Pair) (v : Word) (s : State) : (pairSet p v s).flags = s.flags := rfl
@[simp] theorem pairSet_inte (p : Pair) (v : Word) (s : State) : (pairSet p v s).inte = s.inte := rfl
@[simp] theorem pairSet_halted (p : Pair) (v : Word) (s : State) : (pairSet p v s).halted = s.halted := rfl
@[simp] theorem pairSet_cyc (p : Pair) (v : Word) (s : State) : (pairSet p v s).cyc = s.cyc := rfl
@[simp] theorem pairSet_mem (p : Pair) (v : Word) (s : State) : (pairSet p v s).mem = s.mem := rfl
@[simp] theorem pairSet_inPorts (p : Pair) (v : Word) (s : State) : (pairSet p v s).inPorts = s.inPorts := rfl
@[simp] theorem pairSet_outPorts (p : Pair) (v : Word) (s : State) : (pairSet p v s).outPorts = s.outPorts := rfl
@[simp] theorem pairSet_params (p : Pair) (v : Word) (s : State) : (pairSet p v s).params = s.params := rfl

/-! ## spSet -/

@[simp] theorem spSet_regs (v : Word) (s : State) : (spSet v s).regs = s.regs := rfl
@[simp] theorem spSet_pc (v : Word) (s : State) : (spSet v s).pc = s.pc := rfl
@[simp] theorem spSet_sp (v : Word) (s : State) : (spSet v s).sp = v := rfl
@[simp] theorem spSet_flags (v : Word) (s : State) : (spSet v s).flags = s.flags := rfl
@[simp] theorem spSet_inte (v : Word) (s : State) : (spSet v s).inte = s.inte := rfl
@[simp] theorem spSet_halted (v : Word) (s : State) : (spSet v s).halted = s.halted := rfl
@[simp] theorem spSet_cyc (v : Word) (s : State) : (spSet v s).cyc = s.cyc := rfl
@[simp] theorem spSet_mem (v : Word) (s : State) : (spSet v s).mem = s.mem := rfl
@[simp] theorem spSet_inPorts (v : Word) (s : State) : (spSet v s).inPorts = s.inPorts := rfl
@[simp] theorem spSet_outPorts (v : Word) (s : State) : (spSet v s).outPorts = s.outPorts := rfl
@[simp] theorem spSet_params (v : Word) (s : State) : (spSet v s).params = s.params := rfl

/-! ## pcSet -/

@[simp] theorem pcSet_regs (v : Word) (s : State) : (pcSet v s).regs = s.regs := rfl
@[simp] theorem pcSet_pc (v : Word) (s : State) : (pcSet v s).pc = v := rfl
@[simp] theorem pcSet_sp (v : Word) (s : State) : (pcSet v s).sp = s.sp := rfl
@[simp] theorem pcSet_flags (v : Word) (s : State) : (pcSet v s).flags = s.flags := rfl
@[simp] theorem pcSet_inte (v : Word) (s : State) : (pcSet v s).inte = s.inte := rfl
@[simp] theorem pcSet_halted (v : Word) (s : State) : (pcSet v s).halted = s.halted := rfl
@[simp] theorem pcSet_cyc (v : Word) (s : State) : (pcSet v s).cyc = s.cyc := rfl
@[simp] theorem pcSet_mem (v : Word) (s : State) : (pcSet v s).mem = s.mem := rfl
@[simp] theorem pcSet_inPorts (v : Word) (s : State) : (pcSet v s).inPorts = s.inPorts := rfl
@[simp] theorem pcSet_outPorts (v : Word) (s : State) : (pcSet v s).outPorts = s.outPorts := rfl
@[simp] theorem pcSet_params (v : Word) (s : State) : (pcSet v s).params = s.params := rfl

/-! ## pairSpSet -/

@[simp] theorem pairSpSet_pc (p : PairSp) (v : Word) (s : State) : (pairSpSet p v s).pc = s.pc := by cases p <;> rfl
@[simp] theorem pairSpSet_flags (p : PairSp) (v : Word) (s : State) :
    (pairSpSet p v s).flags = s.flags := by cases p <;> rfl
@[simp] theorem pairSpSet_inte (p : PairSp) (v : Word) (s : State) :
    (pairSpSet p v s).inte = s.inte := by cases p <;> rfl
@[simp] theorem pairSpSet_halted (p : PairSp) (v : Word) (s : State) :
    (pairSpSet p v s).halted = s.halted := by cases p <;> rfl
@[simp] theorem pairSpSet_cyc (p : PairSp) (v : Word) (s : State) :
    (pairSpSet p v s).cyc = s.cyc := by cases p <;> rfl
@[simp] theorem pairSpSet_mem (p : PairSp) (v : Word) (s : State) :
    (pairSpSet p v s).mem = s.mem := by cases p <;> rfl
@[simp] theorem pairSpSet_inPorts (p : PairSp) (v : Word) (s : State) :
    (pairSpSet p v s).inPorts = s.inPorts := by cases p <;> rfl
@[simp] theorem pairSpSet_outPorts (p : PairSp) (v : Word) (s : State) :
    (pairSpSet p v s).outPorts = s.outPorts := by cases p <;> rfl
@[simp] theorem pairSpSet_params (p : PairSp) (v : Word) (s : State) :
    (pairSpSet p v s).params = s.params := by cases p <;> rfl

/-! ## flagsSet -/

@[simp] theorem flagsSet_regs (f : Flags) (s : State) : (flagsSet f s).regs = s.regs := rfl
@[simp] theorem flagsSet_pc (f : Flags) (s : State) : (flagsSet f s).pc = s.pc := rfl
@[simp] theorem flagsSet_sp (f : Flags) (s : State) : (flagsSet f s).sp = s.sp := rfl
@[simp] theorem flagsSet_flags (f : Flags) (s : State) : (flagsSet f s).flags = f := rfl
@[simp] theorem flagsSet_inte (f : Flags) (s : State) : (flagsSet f s).inte = s.inte := rfl
@[simp] theorem flagsSet_halted (f : Flags) (s : State) : (flagsSet f s).halted = s.halted := rfl
@[simp] theorem flagsSet_cyc (f : Flags) (s : State) : (flagsSet f s).cyc = s.cyc := rfl
@[simp] theorem flagsSet_mem (f : Flags) (s : State) : (flagsSet f s).mem = s.mem := rfl
@[simp] theorem flagsSet_inPorts (f : Flags) (s : State) : (flagsSet f s).inPorts = s.inPorts := rfl
@[simp] theorem flagsSet_outPorts (f : Flags) (s : State) : (flagsSet f s).outPorts = s.outPorts := rfl
@[simp] theorem flagsSet_params (f : Flags) (s : State) : (flagsSet f s).params = s.params := rfl

/-! ## cySet -/

@[simp] theorem cySet_regs (v : Bool) (s : State) : (cySet v s).regs = s.regs := rfl
@[simp] theorem cySet_pc (v : Bool) (s : State) : (cySet v s).pc = s.pc := rfl
@[simp] theorem cySet_sp (v : Bool) (s : State) : (cySet v s).sp = s.sp := rfl
@[simp] theorem cySet_flags (v : Bool) (s : State) : (cySet v s).flags = { s.flags with cy := v } := rfl
@[simp] theorem cySet_inte (v : Bool) (s : State) : (cySet v s).inte = s.inte := rfl
@[simp] theorem cySet_halted (v : Bool) (s : State) : (cySet v s).halted = s.halted := rfl
@[simp] theorem cySet_cyc (v : Bool) (s : State) : (cySet v s).cyc = s.cyc := rfl
@[simp] theorem cySet_mem (v : Bool) (s : State) : (cySet v s).mem = s.mem := rfl
@[simp] theorem cySet_inPorts (v : Bool) (s : State) : (cySet v s).inPorts = s.inPorts := rfl
@[simp] theorem cySet_outPorts (v : Bool) (s : State) : (cySet v s).outPorts = s.outPorts := rfl
@[simp] theorem cySet_params (v : Bool) (s : State) : (cySet v s).params = s.params := rfl

/-! ## inteSet -/

@[simp] theorem inteSet_regs (v : Bool) (s : State) : (inteSet v s).regs = s.regs := rfl
@[simp] theorem inteSet_pc (v : Bool) (s : State) : (inteSet v s).pc = s.pc := rfl
@[simp] theorem inteSet_sp (v : Bool) (s : State) : (inteSet v s).sp = s.sp := rfl
@[simp] theorem inteSet_flags (v : Bool) (s : State) : (inteSet v s).flags = s.flags := rfl
@[simp] theorem inteSet_inte (v : Bool) (s : State) : (inteSet v s).inte = v := rfl
@[simp] theorem inteSet_halted (v : Bool) (s : State) : (inteSet v s).halted = s.halted := rfl
@[simp] theorem inteSet_cyc (v : Bool) (s : State) : (inteSet v s).cyc = s.cyc := rfl
@[simp] theorem inteSet_mem (v : Bool) (s : State) : (inteSet v s).mem = s.mem := rfl
@[simp] theorem inteSet_inPorts (v : Bool) (s : State) : (inteSet v s).inPorts = s.inPorts := rfl
@[simp] theorem inteSet_outPorts (v : Bool) (s : State) : (inteSet v s).outPorts = s.outPorts := rfl
@[simp] theorem inteSet_params (v : Bool) (s : State) : (inteSet v s).params = s.params := rfl

/-! ## accSet -/

@[simp] theorem accSet_regs (v : Byte) (s : State) : (accSet v s).regs = { s.regs with a := v } := rfl
@[simp] theorem accSet_pc (v : Byte) (s : State) : (accSet v s).pc = s.pc := rfl
@[simp] theorem accSet_sp (v : Byte) (s : State) : (accSet v s).sp = s.sp := rfl
@[simp] theorem accSet_flags (v : Byte) (s : State) : (accSet v s).flags = s.flags := rfl
@[simp] theorem accSet_inte (v : Byte) (s : State) : (accSet v s).inte = s.inte := rfl
@[simp] theorem accSet_halted (v : Byte) (s : State) : (accSet v s).halted = s.halted := rfl
@[simp] theorem accSet_cyc (v : Byte) (s : State) : (accSet v s).cyc = s.cyc := rfl
@[simp] theorem accSet_mem (v : Byte) (s : State) : (accSet v s).mem = s.mem := rfl
@[simp] theorem accSet_inPorts (v : Byte) (s : State) : (accSet v s).inPorts = s.inPorts := rfl
@[simp] theorem accSet_outPorts (v : Byte) (s : State) : (accSet v s).outPorts = s.outPorts := rfl
@[simp] theorem accSet_params (v : Byte) (s : State) : (accSet v s).params = s.params := rfl

/-! ## memWrite -/

@[simp] theorem memWrite_regs (adr : Word) (v : Byte) (s : State) : (memWrite adr v s).regs = s.regs := rfl
@[simp] theorem memWrite_pc (adr : Word) (v : Byte) (s : State) : (memWrite adr v s).pc = s.pc := rfl
@[simp] theorem memWrite_sp (adr : Word) (v : Byte) (s : State) : (memWrite adr v s).sp = s.sp := rfl
@[simp] theorem memWrite_flags (adr : Word) (v : Byte) (s : State) : (memWrite adr v s).flags = s.flags := rfl
@[simp] theorem memWrite_inte (adr : Word) (v : Byte) (s : State) : (memWrite adr v s).inte = s.inte := rfl
@[simp] theorem memWrite_halted (adr : Word) (v : Byte) (s : State) : (memWrite adr v s).halted = s.halted := rfl
@[simp] theorem memWrite_cyc (adr : Word) (v : Byte) (s : State) : (memWrite adr v s).cyc = s.cyc := rfl
@[simp] theorem memWrite_mem (adr : Word) (v : Byte) (s : State) :
    (memWrite adr v s).mem = if isProtected s.params adr then s.mem else cellWrite s.mem adr.toNat v := rfl
@[simp] theorem memWrite_inPorts (adr : Word) (v : Byte) (s : State) : (memWrite adr v s).inPorts = s.inPorts := rfl
@[simp] theorem memWrite_outPorts (adr : Word) (v : Byte) (s : State) :
    (memWrite adr v s).outPorts = s.outPorts := rfl
@[simp] theorem memWrite_params (adr : Word) (v : Byte) (s : State) : (memWrite adr v s).params = s.params := rfl

/-! ## memWrite16 -/

@[simp] theorem memWrite16_regs (adr v : Word) (s : State) : (memWrite16 adr v s).regs = s.regs := rfl
@[simp] theorem memWrite16_pc (adr v : Word) (s : State) : (memWrite16 adr v s).pc = s.pc := rfl
@[simp] theorem memWrite16_sp (adr v : Word) (s : State) : (memWrite16 adr v s).sp = s.sp := rfl
@[simp] theorem memWrite16_flags (adr v : Word) (s : State) : (memWrite16 adr v s).flags = s.flags := rfl
@[simp] theorem memWrite16_inte (adr v : Word) (s : State) : (memWrite16 adr v s).inte = s.inte := rfl
@[simp] theorem memWrite16_halted (adr v : Word) (s : State) : (memWrite16 adr v s).halted = s.halted := rfl
@[simp] theorem memWrite16_cyc (adr v : Word) (s : State) : (memWrite16 adr v s).cyc = s.cyc := rfl
@[simp] theorem memWrite16_inPorts (adr v : Word) (s : State) : (memWrite16 adr v s).inPorts = s.inPorts := rfl
@[simp] theorem memWrite16_outPorts (adr v : Word) (s : State) : (memWrite16 adr v s).outPorts = s.outPorts := rfl
@[simp] theorem memWrite16_params (adr v : Word) (s : State) : (memWrite16 adr v s).params = s.params := rfl

/-! ## portWrite -/

@[simp] theorem portWrite_regs (n v : Byte) (s : State) : (portWrite n v s).regs = s.regs := rfl
@[simp] theorem portWrite_pc (n v : Byte) (s : State) : (portWrite n v s).pc = s.pc := rfl
@[simp] theorem portWrite_sp (n v : Byte) (s : State) : (portWrite n v s).sp = s.sp := rfl
@[simp] theorem portWrite_flags (n v : Byte) (s : State) : (portWrite n v s).flags = s.flags := rfl
@[simp] theorem portWrite_inte (n v : Byte) (s : State) : (portWrite n v s).inte = s.inte := rfl
@[simp] theorem portWrite_halted (n v : Byte) (s : State) : (portWrite n v s).halted = s.halted := rfl
@[simp] theorem portWrite_cyc (n v : Byte) (s : State) : (portWrite n v s).cyc = s.cyc := rfl
@[simp] theorem portWrite_mem (n v : Byte) (s : State) : (portWrite n v s).mem = s.mem := rfl
@[simp] theorem portWrite_inPorts (n v : Byte) (s : State) :
    (portWrite n v s).inPorts = if isLoopback s.params n then cellWrite s.inPorts n.toNat v else s.inPorts := rfl
@[simp] theorem portWrite_outPorts (n v : Byte) (s : State) :
    (portWrite n v s).outPorts = cellWrite s.outPorts n.toNat v := rfl
@[simp] theorem portWrite_params (n v : Byte) (s : State) : (portWrite n v s).params = s.params := rfl

/-! ## push16 -/

@[simp] theorem push16_regs (v : Word) (s : State) : (push16 v s).regs = s.regs := rfl
@[simp] theorem push16_pc (v : Word) (s : State) : (push16 v s).pc = s.pc := rfl
@[simp] theorem push16_sp (v : Word) (s : State) : (push16 v s).sp = s.sp - 2 := rfl
@[simp] theorem push16_flags (v : Word) (s : State) : (push16 v s).flags = s.flags := rfl
@[simp] theorem push16_inte (v : Word) (s : State) : (push16 v s).inte = s.inte := rfl
@[simp] theorem push16_halted (v : Word) (s : State) : (push16 v s).halted = s.halted := rfl
@[simp] theorem push16_cyc (v : Word) (s : State) : (push16 v s).cyc = s.cyc := rfl
@[simp] theorem push16_inPorts (v : Word) (s : State) : (push16 v s).inPorts = s.inPorts := rfl
@[simp] theorem push16_outPorts (v : Word) (s : State) : (push16 v s).outPorts = s.outPorts := rfl
@[simp] theorem push16_params (v : Word) (s : State) : (push16 v s).params = s.params := rfl

/-! ## popDrop -/

@[simp] theorem popDrop_regs (s : State) : (popDrop s).regs = s.regs := rfl
@[simp] theorem popDrop_pc (s : State) : (popDrop s).pc = s.pc := rfl
@[simp] theorem popDrop_sp (s : State) : (popDrop s).sp = s.sp + 2 := rfl
@[simp] theorem popDrop_flags (s : State) : (popDrop s).flags = s.flags := rfl
@[simp] theorem popDrop_inte (s : State) : (popDrop s).inte = s.inte := rfl
@[simp] theorem popDrop_halted (s : State) : (popDrop s).halted = s.halted := rfl
@[simp] theorem popDrop_cyc (s : State) : (popDrop s).cyc = s.cyc := rfl
@[simp] theorem popDrop_mem (s : State) : (popDrop s).mem = s.mem := rfl
@[simp] theorem popDrop_inPorts (s : State) : (popDrop s).inPorts = s.inPorts := rfl
@[simp] theorem popDrop_outPorts (s : State) : (popDrop s).outPorts = s.outPorts := rfl
@[simp] theorem popDrop_params (s : State) : (popDrop s).params = s.params := rfl

/-! ## aluToAcc -/

@[simp] theorem aluToAcc_regs (o : AluOut) (s : State) : (aluToAcc o s).regs = { s.regs with a := o.r } := rfl
@[simp] theorem aluToAcc_pc (o : AluOut) (s : State) : (aluToAcc o s).pc = s.pc := rfl
@[simp] theorem aluToAcc_sp (o : AluOut) (s : State) : (aluToAcc o s).sp = s.sp := rfl
@[simp] theorem aluToAcc_flags (o : AluOut) (s : State) : (aluToAcc o s).flags = aluFlags o s.flags := rfl
@[simp] theorem aluToAcc_inte (o : AluOut) (s : State) : (aluToAcc o s).inte = s.inte := rfl
@[simp] theorem aluToAcc_halted (o : AluOut) (s : State) : (aluToAcc o s).halted = s.halted := rfl
@[simp] theorem aluToAcc_cyc (o : AluOut) (s : State) : (aluToAcc o s).cyc = s.cyc := rfl
@[simp] theorem aluToAcc_mem (o : AluOut) (s : State) : (aluToAcc o s).mem = s.mem := rfl
@[simp] theorem aluToAcc_inPorts (o : AluOut) (s : State) : (aluToAcc o s).inPorts = s.inPorts := rfl
@[simp] theorem aluToAcc_outPorts (o : AluOut) (s : State) : (aluToAcc o s).outPorts = s.outPorts := rfl
@[simp] theorem aluToAcc_params (o : AluOut) (s : State) : (aluToAcc o s).params = s.params := rfl

/-! ## aluToFlags -/

@[simp] theorem aluToFlags_regs (o : AluOut) (s : State) : (aluToFlags o s).regs = s.regs := rfl
@[simp] theorem aluToFlags_pc (o : AluOut) (s : State) : (aluToFlags o s).pc = s.pc := rfl
@[simp] theorem aluToFlags_sp (o : AluOut) (s : State) : (aluToFlags o s).sp = s.sp := rfl
@[simp] theorem aluToFlags_flags (o : AluOut) (s : State) : (aluToFlags o s).flags = aluFlags o s.flags := rfl
@[simp] theorem aluToFlags_inte (o : AluOut) (s : State) : (aluToFlags o s).inte = s.inte := rfl
@[simp] theorem aluToFlags_halted (o : AluOut) (s : State) : (aluToFlags o s).halted = s.halted := rfl
@[simp] theorem aluToFlags_cyc (o : AluOut) (s : State) : (aluToFlags o s).cyc = s.cyc := rfl
@[simp] theorem aluToFlags_mem (o : AluOut) (s : State) : (aluToFlags o s).mem = s.mem := rfl
@[simp] theorem aluToFlags_inPorts (o : AluOut) (s : State) : (aluToFlags o s).inPorts = s.inPorts := rfl
@[simp] theorem aluToFlags_outPorts (o : AluOut) (s : State) : (aluToFlags o s).outPorts = s.outPorts := rfl
@[simp] theorem aluToFlags_params (o : AluOut) (s : State) : (aluToFlags o s).params = s.params := rfl

/-! ## andToAcc -/

@[simp] theorem andToAcc_regs (v : Byte) (s : State) :
    (andToAcc v s).regs = { s.regs with a := s.regs.a &&& v } := rfl
@[simp] theorem andToAcc_pc (v : Byte) (s : State) : (andToAcc v s).pc = s.pc := rfl
@[simp] theorem andToAcc_sp (v : Byte) (s : State) : (andToAcc v s).sp = s.sp := rfl
@[simp] theorem andToAcc_flags (v : Byte) (s : State) : (andToAcc v s).flags = andFlags s.regs.a v s.flags := rfl
@[simp] theorem andToAcc_inte (v : Byte) (s : State) : (andToAcc v s).inte = s.inte := rfl
@[simp] theorem andToAcc_halted (v : Byte) (s : State) : (andToAcc v s).halted = s.halted := rfl
@[simp] theorem andToAcc_cyc (v : Byte) (s : State) : (andToAcc v s).cyc = s.cyc := rfl
@[simp] theorem andToAcc_mem (v : Byte) (s : State) : (andToAcc v s).mem = s.mem := rfl
@[simp] theorem andToAcc_inPorts (v : Byte) (s : State) : (andToAcc v s).inPorts = s.inPorts := rfl
@[simp] theorem andToAcc_outPorts (v : Byte) (s : State) : (andToAcc v s).outPorts = s.outPorts := rfl
@[simp] theorem andToAcc_params (v : Byte) (s : State) : (andToAcc v s).params = s.params := rfl

/-! ## logicToAcc -/

@[simp] theorem logicToAcc_regs (v : Byte) (s : State) : (logicToAcc v s).regs = { s.regs with a := v } := rfl
@[simp] theorem logicToAcc_pc (v : Byte) (s : State) : (logicToAcc v s).pc = s.pc := rfl
@[simp] theorem logicToAcc_sp (v : Byte) (s : State) : (logicToAcc v s).sp = s.sp := rfl
@[simp] theorem logicToAcc_flags (v : Byte) (s : State) : (logicToAcc v s).flags = logicFlags v s.flags := rfl
@[simp] theorem logicToAcc_inte (v : Byte) (s : State) : (logicToAcc v s).inte = s.inte := rfl
@[simp] theorem logicToAcc_halted (v : Byte) (s : State) : (logicToAcc v s).halted = s.halted := rfl
@[simp] theorem logicToAcc_cyc (v : Byte) (s : State) : (logicToAcc v s).cyc = s.cyc := rfl
@[simp] theorem logicToAcc_mem (v : Byte) (s : State) : (logicToAcc v s).mem = s.mem := rfl
@[simp] theorem logicToAcc_inPorts (v : Byte) (s : State) : (logicToAcc v s).inPorts = s.inPorts := rfl
@[simp] theorem logicToAcc_outPorts (v : Byte) (s : State) : (logicToAcc v s).outPorts = s.outPorts := rfl
@[simp] theorem logicToAcc_params (v : Byte) (s : State) : (logicToAcc v s).params = s.params := rfl

/-! ## rotateToAcc -/

@[simp] theorem rotateToAcc_regs (v : Byte) (cy : Bool) (s : State) :
    (rotateToAcc v cy s).regs = { s.regs with a := v } := rfl
@[simp] theorem rotateToAcc_pc (v : Byte) (cy : Bool) (s : State) : (rotateToAcc v cy s).pc = s.pc := rfl
@[simp] theorem rotateToAcc_sp (v : Byte) (cy : Bool) (s : State) : (rotateToAcc v cy s).sp = s.sp := rfl
@[simp] theorem rotateToAcc_flags (v : Byte) (cy : Bool) (s : State) :
    (rotateToAcc v cy s).flags = { s.flags with cy := cy } := rfl
@[simp] theorem rotateToAcc_inte (v : Byte) (cy : Bool) (s : State) : (rotateToAcc v cy s).inte = s.inte := rfl
@[simp] theorem rotateToAcc_halted (v : Byte) (cy : Bool) (s : State) : (rotateToAcc v cy s).halted = s.halted := rfl
@[simp] theorem rotateToAcc_cyc (v : Byte) (cy : Bool) (s : State) : (rotateToAcc v cy s).cyc = s.cyc := rfl
@[simp] theorem rotateToAcc_mem (v : Byte) (cy : Bool) (s : State) : (rotateToAcc v cy s).mem = s.mem := rfl
@[simp] theorem rotateToAcc_inPorts (v : Byte) (cy : Bool) (s : State) :
    (rotateToAcc v cy s).inPorts = s.inPorts := rfl
@[simp] theorem rotateToAcc_outPorts (v : Byte) (cy : Bool) (s : State) :
    (rotateToAcc v cy s).outPorts = s.outPorts := rfl
@[simp] theorem rotateToAcc_params (v : Byte) (cy : Bool) (s : State) : (rotateToAcc v cy s).params = s.params := rfl

/-! ## callTo -/

@[simp] theorem callTo_regs (adr : Word) (s : State) : (callTo adr s).regs = s.regs := rfl
@[simp] theorem callTo_pc (adr : Word) (s : State) : (callTo adr s).pc = adr := rfl
@[simp] theorem callTo_sp (adr : Word) (s : State) : (callTo adr s).sp = s.sp - 2 := rfl
@[simp] theorem callTo_flags (adr : Word) (s : State) : (callTo adr s).flags = s.flags := rfl
@[simp] theorem callTo_inte (adr : Word) (s : State) : (callTo adr s).inte = s.inte := rfl
@[simp] theorem callTo_halted (adr : Word) (s : State) : (callTo adr s).halted = s.halted := rfl
@[simp] theorem callTo_cyc (adr : Word) (s : State) : (callTo adr s).cyc = s.cyc := rfl
@[simp] theorem callTo_mem (adr : Word) (s : State) : (callTo adr s).mem = (push16 s.pc s).mem := rfl
@[simp] theorem callTo_inPorts (adr : Word) (s : State) : (callTo adr s).inPorts = s.inPorts := rfl
@[simp] theorem callTo_outPorts (adr : Word) (s : State) : (callTo adr s).outPorts = s.outPorts := rfl
@[simp] theorem callTo_params (adr : Word) (s : State) : (callTo adr s).params = s.params := rfl

/-! ## returnTo -/

@[simp] theorem returnTo_regs (s : State) : (returnTo s).regs = s.regs := rfl
@[simp] theorem returnTo_pc (s : State) : (returnTo s).pc = popValue s := rfl
@[simp] theorem returnTo_sp (s : State) : (returnTo s).sp = s.sp + 2 := rfl
@[simp] theorem returnTo_flags (s : State) : (returnTo s).flags = s.flags := rfl
@[simp] theorem returnTo_inte (s : State) : (returnTo s).inte = s.inte := rfl
@[simp] theorem returnTo_halted (s : State) : (returnTo s).halted = s.halted := rfl
@[simp] theorem returnTo_cyc (s : State) : (returnTo s).cyc = s.cyc := rfl
@[simp] theorem returnTo_mem (s : State) : (returnTo s).mem = s.mem := rfl
@[simp] theorem returnTo_inPorts (s : State) : (returnTo s).inPorts = s.inPorts := rfl
@[simp] theorem returnTo_outPorts (s : State) : (returnTo s).outPorts = s.outPorts := rfl
@[simp] theorem returnTo_params (s : State) : (returnTo s).params = s.params := rfl

/-! ## haltLatch -/

@[simp] theorem haltLatch_regs (s : State) : (haltLatch s).regs = s.regs := rfl
@[simp] theorem haltLatch_pc (s : State) : (haltLatch s).pc = s.pc := rfl
@[simp] theorem haltLatch_sp (s : State) : (haltLatch s).sp = s.sp := rfl
@[simp] theorem haltLatch_flags (s : State) : (haltLatch s).flags = s.flags := rfl
@[simp] theorem haltLatch_inte (s : State) : (haltLatch s).inte = s.inte := rfl
@[simp] theorem haltLatch_halted (s : State) :
    (haltLatch s).halted = (decide (s.params.hltMode = .halt) || s.halted) := rfl
@[simp] theorem haltLatch_cyc (s : State) : (haltLatch s).cyc = s.cyc := rfl
@[simp] theorem haltLatch_mem (s : State) : (haltLatch s).mem = s.mem := rfl
@[simp] theorem haltLatch_inPorts (s : State) : (haltLatch s).inPorts = s.inPorts := rfl
@[simp] theorem haltLatch_outPorts (s : State) : (haltLatch s).outPorts = s.outPorts := rfl
@[simp] theorem haltLatch_params (s : State) : (haltLatch s).params = s.params := rfl

/-! ## countCycles -/

@[simp] theorem countCycles_regs (i : Instr) (f : Flags) (s : State) : (countCycles i f s).regs = s.regs := rfl
@[simp] theorem countCycles_pc (i : Instr) (f : Flags) (s : State) : (countCycles i f s).pc = s.pc := rfl
@[simp] theorem countCycles_sp (i : Instr) (f : Flags) (s : State) : (countCycles i f s).sp = s.sp := rfl
@[simp] theorem countCycles_flags (i : Instr) (f : Flags) (s : State) : (countCycles i f s).flags = s.flags := rfl
@[simp] theorem countCycles_inte (i : Instr) (f : Flags) (s : State) : (countCycles i f s).inte = s.inte := rfl
@[simp] theorem countCycles_halted (i : Instr) (f : Flags) (s : State) : (countCycles i f s).halted = s.halted := rfl
@[simp] theorem countCycles_cyc (i : Instr) (f : Flags) (s : State) :
    (countCycles i f s).cyc = if s.params.hasCycleCounter then s.cyc + cyclesOf i f else s.cyc := rfl
@[simp] theorem countCycles_mem (i : Instr) (f : Flags) (s : State) : (countCycles i f s).mem = s.mem := rfl
@[simp] theorem countCycles_inPorts (i : Instr) (f : Flags) (s : State) :
    (countCycles i f s).inPorts = s.inPorts := rfl
@[simp] theorem countCycles_outPorts (i : Instr) (f : Flags) (s : State) :
    (countCycles i f s).outPorts = s.outPorts := rfl
@[simp] theorem countCycles_params (i : Instr) (f : Flags) (s : State) : (countCycles i f s).params = s.params := rfl

end Sys2Proof.Machine
end

