-- ==== Sys2Proof/Laws/Cells.lean ====
section
/-! SUPPORT. The laws of byte cells: what a read answers after a write, and that a write keeps the canonical form. -/

namespace Sys2Proof.Machine

@[simp] theorem cellsWf_nil (bound lo : Nat) : cellsWf bound lo [] = true := rfl

theorem cellsWf_cons (bound lo k : Nat) (v : Byte) (m : List Host.Cell) :
    cellsWf bound lo ((k, v) :: m) = true
      ↔ lo ≤ k ∧ k < bound ∧ v ≠ Config.unlistedByte ∧ cellsWf bound (k + 1) m = true := by
  simp [cellsWf, and_assoc]

theorem cellsWf_mono {bound lo lo' : Nat} {m : List Host.Cell} (hle : lo' ≤ lo)
    (h : cellsWf bound lo m = true) : cellsWf bound lo' m = true := by
  cases m with
  | nil => rfl
  | cons c m =>
    obtain ⟨k, v⟩ := c
    rw [cellsWf_cons] at h ⊢
    exact ⟨hle.trans h.1, h.2⟩

/-- A key below every listed key is unlisted. -/
theorem cellRead_of_lt {bound lo : Nat} {m : List Host.Cell} (h : cellsWf bound lo m = true) {k : Nat}
    (hk : k < lo) : cellRead m k = Config.unlistedByte := by
  induction m generalizing lo with
  | nil => rfl
  | cons c m ih =>
    obtain ⟨k', v⟩ := c
    rw [cellsWf_cons] at h
    rw [cellRead, if_neg (by omega)]
    exact ih h.2.2.2 (by omega)

/-- A write leaves every other key alone, in canonical form or not. -/
theorem cellRead_cellWrite_ne (m : List Host.Cell) {k j : Nat} (v : Byte) (h : j ≠ k) :
    cellRead (cellWrite m k v) j = cellRead m j := by
  induction m with
  | nil =>
    rw [cellWrite]
    split <;> simp [cellRead, h.symm]
  | cons c m ih =>
    obtain ⟨k', v'⟩ := c
    rw [cellWrite]
    split
    · split <;> simp [cellRead, h.symm]
    · split
      · subst k
        split <;> simp [cellRead, h.symm]
      · simp [cellRead, ih]

/-- In canonical form, a read of the key written gives the byte written. -/
theorem cellRead_cellWrite_same {bound lo : Nat} {m : List Host.Cell} (h : cellsWf bound lo m = true) (k : Nat)
    (v : Byte) : cellRead (cellWrite m k v) k = v := by
  induction m generalizing lo with
  | nil =>
    rw [cellWrite]
    split <;> simp [cellRead, *]
  | cons c m ih =>
    obtain ⟨k', v'⟩ := c
    rw [cellsWf_cons] at h
    rw [cellWrite]
    split
    · split
      · rw [cellRead, if_neg (by omega), cellRead_of_lt h.2.2.2 (by omega)]
        simp [*]
      · simp [cellRead]
    · split
      · subst k
        split
        · rw [cellRead_of_lt h.2.2.2 (by omega)]
          simp [*]
        · simp [cellRead]
      · rw [cellRead, if_neg (by omega)]
        exact ih h.2.2.2

/-- A write keeps the canonical form. -/
theorem cellsWf_cellWrite {bound lo : Nat} {m : List Host.Cell} (h : cellsWf bound lo m = true) {k : Nat}
    (hlo : lo ≤ k) (hk : k < bound) (v : Byte) : cellsWf bound lo (cellWrite m k v) = true := by
  induction m generalizing lo with
  | nil =>
    rw [cellWrite]
    split <;> simp [cellsWf_cons, *]
  | cons c m ih =>
    obtain ⟨k', v'⟩ := c
    have h' := h
    rw [cellsWf_cons] at h
    rw [cellWrite]
    split
    · split
      · exact h'
      · simp [cellsWf_cons, *]
    · split
      · subst k
        split
        · exact cellsWf_mono (by omega) h.2.2.2
        · simp [cellsWf_cons, *]
      · rw [cellsWf_cons]
        exact ⟨h.1, h.2.1, h.2.2.1, ih h.2.2.2 (by omega)⟩

theorem Memory.wf_cellWrite {m : Memory} (h : Memory.wf m = true) (adr : Word) (v : Byte) :
    Memory.wf (cellWrite m adr.toNat v) = true :=
  cellsWf_cellWrite h (Nat.zero_le _) adr.isLt v

theorem PortBank.wf_cellWrite {m : PortBank} (h : PortBank.wf m = true) {k : Nat} (hk : k < 256) (v : Byte) :
    PortBank.wf (cellWrite m k v) = true :=
  cellsWf_cellWrite h (Nat.zero_le _) hk v

theorem Memory.wf_loadBytes (bytes : List Byte) (adr : Word) {m : Memory} (h : Memory.wf m = true) :
    Memory.wf (loadBytes bytes adr m) = true := by
  induction bytes generalizing adr m with
  | nil => exact h
  | cons v rest ih => exact ih _ (Memory.wf_cellWrite h adr v)

end Sys2Proof.Machine
end

