-- ==== Sys2Proof/Laws/Ops.lean ====
section
/-! SUPPORT. One specification lemma per shared operation over registers, memory, ports and the stack. -/

namespace Sys2Proof.Machine

/-! ## Registers -/

/-- A register write changes that register alone. -/
theorem regGet_regSet (q r : Reg8) (v : Byte) (s : State) :
    regGet q (regSet r v s) = if q = r then v else regGet q s := by
  cases q <;> cases r <;> rfl

/-- A pair write changes the two registers of the pair alone. -/
theorem regGet_pairSet (q : Reg8) (p : Pair) (v : Word) (s : State) :
    regGet q (pairSet p v s)
      = if q = pairLo p then loByte v else if q = pairHi p then hiByte v else regGet q s := by
  cases q <;> cases p <;> rfl

/-- A register is read from the register file alone. -/
theorem regGet_congr {s t : State} (h : t.regs = s.regs) (r : Reg8) : regGet r t = regGet r s := by
  cases r <;> simp [regGet, h]

/-! ## Words and bytes -/

@[simp] theorem wordOf_hiByte_loByte (v : Word) : wordOf (hiByte v) (loByte v) = v := by
  apply BitVec.eq_of_toNat_eq
  simp only [wordOf, hiByte, loByte, BitVec.toNat_append, BitVec.extractLsb'_toNat]
  rw [← Nat.shiftLeft_add_eq_or_of_lt (Nat.mod_lt _ (by decide))]
  simp only [Nat.shiftLeft_eq, Nat.shiftRight_eq_div_pow]
  have := v.isLt
  omega

@[simp] theorem hiByte_wordOf (hi lo : Byte) : hiByte (wordOf hi lo) = hi := by
  apply BitVec.eq_of_toNat_eq
  simp only [wordOf, hiByte, BitVec.extractLsb'_toNat, BitVec.toNat_append]
  rw [← Nat.shiftLeft_add_eq_or_of_lt lo.isLt]
  simp only [Nat.shiftLeft_eq, Nat.shiftRight_eq_div_pow]
  have := hi.isLt
  have := lo.isLt
  omega

@[simp] theorem loByte_wordOf (hi lo : Byte) : loByte (wordOf hi lo) = lo := by
  apply BitVec.eq_of_toNat_eq
  simp only [wordOf, loByte, BitVec.extractLsb'_toNat, BitVec.toNat_append]
  rw [← Nat.shiftLeft_add_eq_or_of_lt lo.isLt]
  simp only [Nat.shiftLeft_eq, Nat.shiftRight_eq_div_pow]
  have := hi.isLt
  have := lo.isLt
  omega

/-- `{hi, lo} = hi * 256 + lo`. -/
theorem wordOf_toNat (hi lo : Byte) : (wordOf hi lo).toNat = hi.toNat * 256 + lo.toNat := by
  simp only [wordOf, BitVec.toNat_append]
  rw [← Nat.shiftLeft_add_eq_or_of_lt lo.isLt]
  simp [Nat.shiftLeft_eq]

/-! ## Memory -/

theorem isProtected_iff (p : Config.Params) (adr : Word) :
    isProtected p adr = true ↔ p.romLo ≤ adr ∧ adr ≤ p.romHi := by
  simp [isProtected]

/-- A memory byte is read from the memory alone. -/
theorem memRead_congr {s t : State} (h : t.mem = s.mem) (adr : Word) : memRead adr t = memRead adr s := by
  simp [memRead, h]

/-- A store leaves every other byte alone. -/
theorem memRead_memWrite_ne {adr j : Word} (h : j ≠ adr) (v : Byte) (s : State) :
    memRead j (memWrite adr v s) = memRead j s := by
  rw [memRead, memWrite_mem]
  split
  · rfl
  · exact cellRead_cellWrite_ne _ _ fun e => h (BitVec.eq_of_toNat_eq e)

/-- What the byte stored to reads as after a store. -/
theorem memRead_memWrite_same {s : State} (h : Memory.wf s.mem = true) (adr : Word) (v : Byte) :
    memRead adr (memWrite adr v s) = if isProtected s.params adr then memRead adr s else v := by
  rw [memRead, memWrite_mem]
  split
  · rfl
  · exact cellRead_cellWrite_same h _ _

/-- A store never changes a write-protected byte. -/
theorem memRead_memWrite_protected {adr j : Word} {s : State} (h : isProtected s.params j = true) (v : Byte) :
    memRead j (memWrite adr v s) = memRead j s := by
  by_cases e : j = adr
  · subst e
    simp [memRead, h]
  · exact memRead_memWrite_ne e v s

theorem memWrite_wf {s : State} (h : Memory.wf s.mem = true) (adr : Word) (v : Byte) :
    Memory.wf (memWrite adr v s).mem = true := by
  rw [memWrite_mem]
  split
  · exact h
  · exact Memory.wf_cellWrite h adr v

theorem memWrite16_wf {s : State} (h : Memory.wf s.mem = true) (adr v : Word) :
    Memory.wf (memWrite16 adr v s).mem = true :=
  memWrite_wf (memWrite_wf h _ _) _ _

theorem push16_wf {s : State} (h : Memory.wf s.mem = true) (v : Word) : Memory.wf (push16 v s).mem = true :=
  memWrite_wf (memWrite_wf h _ _) _ _

/-! ## Two-byte stores -/

theorem word_add_one_ne (adr : Word) : adr + 1 ≠ adr := by bv_omega

theorem word_sub_two_ne (adr : Word) : adr - 2 ≠ adr - 1 := by bv_omega

/-- A two-byte store leaves every byte but its two alone. -/
theorem memRead_memWrite16_ne {adr j : Word} (h0 : j ≠ adr) (h1 : j ≠ adr + 1) (v : Word) (s : State) :
    memRead j (memWrite16 adr v s) = memRead j s := by
  rw [memWrite16, memRead_memWrite_ne h1, memRead_memWrite_ne h0]

/-- What the two bytes stored to read as after a two-byte store. -/
theorem memRead_memWrite16_same {s : State} (h : Memory.wf s.mem = true) (adr v : Word) :
    memRead adr (memWrite16 adr v s) = (if isProtected s.params adr then memRead adr s else loByte v)
      ∧ memRead (adr + 1) (memWrite16 adr v s)
        = (if isProtected s.params (adr + 1) then memRead (adr + 1) s else hiByte v) := by
  constructor
  · rw [memWrite16, memRead_memWrite_ne (word_add_one_ne adr).symm, memRead_memWrite_same h]
  · rw [memWrite16, memRead_memWrite_same (memWrite_wf h _ _), memRead_memWrite_ne (word_add_one_ne adr)]
    rfl

/-- A two-byte store never changes a write-protected byte. -/
theorem memRead_memWrite16_protected {adr j : Word} {s : State} (h : isProtected s.params j = true) (v : Word) :
    memRead j (memWrite16 adr v s) = memRead j s := by
  have h' : isProtected (memWrite adr (loByte v) s).params j = true := h
  rw [memWrite16, memRead_memWrite_protected h', memRead_memWrite_protected h]

/-- A push is two stores below SP. -/
theorem memRead_push16 (j v : Word) (s : State) :
    memRead j (push16 v s)
      = memRead j (memWrite (s.sp - 2) (loByte v) (memWrite (s.sp - 1) (hiByte v) s)) := rfl

/-- A push leaves every byte but its two alone. -/
theorem memRead_push16_ne {j : Word} {s : State} (h1 : j ≠ s.sp - 1) (h2 : j ≠ s.sp - 2) (v : Word) :
    memRead j (push16 v s) = memRead j s := by
  rw [memRead_push16, memRead_memWrite_ne h2, memRead_memWrite_ne h1]

/-- What the two bytes pushed read as after a push. -/
theorem memRead_push16_same {s : State} (h : Memory.wf s.mem = true) (v : Word) :
    memRead (s.sp - 1) (push16 v s)
        = (if isProtected s.params (s.sp - 1) then memRead (s.sp - 1) s else hiByte v)
      ∧ memRead (s.sp - 2) (push16 v s)
        = (if isProtected s.params (s.sp - 2) then memRead (s.sp - 2) s else loByte v) := by
  constructor
  · rw [memRead_push16, memRead_memWrite_ne (word_sub_two_ne s.sp).symm, memRead_memWrite_same h]
  · rw [memRead_push16, memRead_memWrite_same (memWrite_wf h _ _), memRead_memWrite_ne (word_sub_two_ne s.sp)]
    rfl

/-- A push never changes a write-protected byte. -/
theorem memRead_push16_protected {j : Word} {s : State} (h : isProtected s.params j = true) (v : Word) :
    memRead j (push16 v s) = memRead j s := by
  have h' : isProtected (memWrite (s.sp - 1) (hiByte v) s).params j = true := h
  rw [memRead_push16, memRead_memWrite_protected h', memRead_memWrite_protected h]

/-- A pair reads as what was written to it. -/
theorem pairGet_pairSet_same (p : Pair) (v : Word) (s : State) : pairGet p (pairSet p v s) = v := by
  cases p <;> exact wordOf_hiByte_loByte v

/-! ## Ports -/

theorem portRead_portWrite_ne {n k : Byte} (h : k ≠ n) (v : Byte) (s : State) :
    portRead k (portWrite n v s) = portRead k s := by
  rw [portRead, portWrite_inPorts]
  split
  · exact cellRead_cellWrite_ne _ _ fun e => h (BitVec.eq_of_toNat_eq e)
  · rfl

theorem outPortRead_portWrite_ne {n k : Byte} (h : k ≠ n) (v : Byte) (s : State) :
    outPortRead k (portWrite n v s) = outPortRead k s := by
  rw [outPortRead, portWrite_outPorts]
  exact cellRead_cellWrite_ne _ _ fun e => h (BitVec.eq_of_toNat_eq e)

theorem outPortRead_portWrite_same {s : State} (h : PortBank.wf s.outPorts = true) (n v : Byte) :
    outPortRead n (portWrite n v s) = v := by
  rw [outPortRead, portWrite_outPorts]
  exact cellRead_cellWrite_same h _ _

theorem portRead_portWrite_same {s : State} (h : PortBank.wf s.inPorts = true) (n v : Byte) :
    portRead n (portWrite n v s) = if isLoopback s.params n then v else portRead n s := by
  rw [portRead, portWrite_inPorts]
  split
  · exact cellRead_cellWrite_same h _ _
  · rfl

theorem portWrite_wf {s : State} (hi : PortBank.wf s.inPorts = true) (ho : PortBank.wf s.outPorts = true)
    (n v : Byte) :
    PortBank.wf (portWrite n v s).inPorts = true ∧ PortBank.wf (portWrite n v s).outPorts = true := by
  rw [portWrite_inPorts, portWrite_outPorts]
  refine ⟨?_, PortBank.wf_cellWrite ho n.isLt v⟩
  split
  · exact PortBank.wf_cellWrite hi n.isLt v
  · exact hi

/-! ## Conditional transfers of control -/

theorem jumpIf_cases (taken : Bool) (adr : Word) (s : State) :
    (taken = true ∧ jumpIf taken adr s = pcSet adr s) ∨ (taken = false ∧ jumpIf taken adr s = s) := by
  cases taken <;> simp [jumpIf]

theorem callIf_cases (taken : Bool) (adr : Word) (s : State) :
    (taken = true ∧ callIf taken adr s = callTo adr s) ∨ (taken = false ∧ callIf taken adr s = s) := by
  cases taken <;> simp [callIf]

theorem returnIf_cases (taken : Bool) (s : State) :
    (taken = true ∧ returnIf taken s = returnTo s) ∨ (taken = false ∧ returnIf taken s = s) := by
  cases taken <;> simp [returnIf]

end Sys2Proof.Machine
end

