-- ==== Sys2Proof/Laws/Decode.lean ====
section
/-! SUPPORT. The laws of the dispatch table and of the decoder. -/

namespace Sys2Proof

open Sys2Proof.Machine

/-- Selection is one of the eight entries. -/
theorem sel8_cases {α : Type} {P : α → Prop} (x : BitVec 3) {e0 e1 e2 e3 e4 e5 e6 e7 : α} (h0 : P e0) (h1 : P e1)
    (h2 : P e2) (h3 : P e3) (h4 : P e4) (h5 : P e5) (h6 : P e6) (h7 : P e7) : P (sel8 x e0 e1 e2 e3 e4 e5 e6 e7) := by
  unfold sel8
  split <;> assumption

theorem bits3_cases : ∀ x : BitVec 3, x = 0#3 ∨ x = 1#3 ∨ x = 2#3 ∨ x = 3#3 ∨ x = 4#3 ∨ x = 5#3 ∨ x = 6#3 ∨ x = 7#3 := by
  decide

theorem bits2_cases : ∀ x : BitVec 2, x = 0#2 ∨ x = 1#2 ∨ x = 2#2 ∨ x = 3#2 := by
  decide

/-- Every opcode value has a dispatch-table entry (30_encoding.md R77). -/
theorem dispatch_mapped (op : Byte) : ∃ h, dispatch op = some h := by
  unfold dispatch sel4
  split <;> exact ⟨_, rfl⟩

theorem decode_f1 {op : Byte} {i : Instr} (h : dispatch op = some (.f1 i)) (rest : List Byte) :
    decode (op :: rest) = .ok (i, rest) := by
  simp [decode, h]

theorem decode_f2 {op : Byte} {k : Byte → Instr} (h : dispatch op = some (.f2 k)) (v : Byte) (rest : List Byte) :
    decode (op :: v :: rest) = .ok (k v, rest) := by
  simp [decode, h]

theorem decode_f3 {op : Byte} {k : Word → Instr} (h : dispatch op = some (.f3 k)) (lo hi : Byte) (rest : List Byte) :
    decode (op :: lo :: hi :: rest) = .ok (k (wordOf hi lo), rest) := by
  simp [decode, h]

theorem decode_bytesF2 {op : Byte} {k : Byte → Instr} (h : dispatch op = some (.f2 k)) (v : Byte) (rest : List Byte) :
    decode (bytesF2 op v ++ rest) = .ok (k v, rest) :=
  decode_f2 h v rest

theorem decode_bytesF3 {op : Byte} {k : Word → Instr} (h : dispatch op = some (.f3 k)) (v : Word) (rest : List Byte) :
    decode (bytesF3 op v ++ rest) = .ok (k v, rest) := by
  rw [bytesF3, List.cons_append, List.cons_append, List.cons_append, List.nil_append, decode_f3 h,
    wordOf_hiByte_loByte]

/-- Fetching through PC and decoding the three bytes from PC read the same instruction (30_encoding.md R75, R76): the
instruction, and PC past exactly the bytes it uses. -/
theorem fetchInstr_of_decode {s : State} {i : Instr} {rest : List Byte}
    (h : decode [memRead s.pc s, memRead (s.pc + 1) s, memRead (s.pc + 1 + 1) s] = .ok (i, rest)) :
    rest.length ≤ 2 ∧ fetchInstr s = .ok (i, pcSet (s.pc + BitVec.ofNat 16 (3 - rest.length)) s) := by
  obtain ⟨e, he⟩ := dispatch_mapped (memRead s.pc s)
  unfold fetchInstr fetch8
  simp only [he]
  cases e with
  | f1 j =>
    rw [decode_f1 he] at h
    cases h
    exact ⟨by simp, rfl⟩
  | f2 k =>
    rw [decode_f2 he] at h
    cases h
    refine ⟨by simp, ?_⟩
    simp only [pcSet_pc]
    show Except.ok (k (memRead (s.pc + 1) s), pcSet (s.pc + 1 + 1) s) = _
    rw [BitVec.add_assoc]
    rfl
  | f3 k =>
    rw [decode_f3 he] at h
    cases h
    refine ⟨by simp, ?_⟩
    show Except.ok (k (wordOf (memRead (s.pc + 1 + 1) s) (memRead (s.pc + 1) s)), pcSet (s.pc + 1 + 1 + 1) s) = _
    rw [BitVec.add_assoc, BitVec.add_assoc s.pc]
    rfl

/-- A fetch always finds an instruction (60_exceptions.md R262). -/
theorem fetchInstr_ok (s : State) : ∃ i t, fetchInstr s = .ok (i, t) := by
  obtain ⟨e, he⟩ := dispatch_mapped (memRead s.pc s)
  unfold fetchInstr fetch8
  simp only [he]
  cases e <;> exact ⟨_, _, rfl⟩

/-- What a fetch answers differs from the state only in PC. -/
theorem fetchInstr_state {s t : State} {i : Instr} (h : fetchInstr s = .ok (i, t)) : t = pcSet t.pc s := by
  simp only [fetchInstr] at h
  split at h <;> cases h <;> rfl

/-- A state that a step leaves as it is stays so for any number of steps. -/
theorem run_of_step_eq (m : Host.Core) (s : m.State) (h : m.step s = .next s) : ∀ n, m.run n s = .next s
  | 0 => rfl
  | n + 1 => by rw [Host.Core.run, h]; exact run_of_step_eq m s h n

end Sys2Proof
end

