-- ==== Sys2Proof/Laws/PerInstr.lean ====
section
/-! SUPPORT. Statements for all instructions, one lemma per constructor. `DecodeEncode`: decoding the encoding of a
well-formed instruction gives it back, with exactly the bytes that follow it left over. -/

namespace Sys2Proof.Laws.DecodeEncode

/-- Decoding undoes encoding for this instruction. -/
def Statement (i : Instr) : Prop :=
  i.wellFormed = true → ∀ rest : List Byte, decode (encode i ++ rest) = .ok (i, rest)

theorem movRR (dst : Reg8) (src : Reg8) : Statement (.movRR dst src) := by
  intro _ rest
  cases dst <;> cases src <;> exact decode_f1 rfl rest

theorem movRM (dst : Reg8) : Statement (.movRM dst) := by
  intro _ rest
  cases dst <;> exact decode_f1 rfl rest

theorem movMR (src : Reg8) : Statement (.movMR src) := by
  intro _ rest
  cases src <;> exact decode_f1 rfl rest

theorem mviR (dst : Reg8) (v : Byte) : Statement (.mviR dst v) := by
  intro _ rest
  cases dst <;> exact decode_bytesF2 rfl v rest

theorem mviM (v : Byte) : Statement (.mviM v) := fun _ => decode_bytesF2 rfl v

theorem lxi (p : PairSp) (v : Word) : Statement (.lxi p v) := by
  intro _ rest
  rcases p with (_ | _ | _) | _ <;> exact decode_bytesF3 rfl v rest

theorem lda (adr : Word) : Statement (.lda adr) := fun _ => decode_bytesF3 rfl adr

theorem sta (adr : Word) : Statement (.sta adr) := fun _ => decode_bytesF3 rfl adr

theorem lhld (adr : Word) : Statement (.lhld adr) := fun _ => decode_bytesF3 rfl adr

theorem shld (adr : Word) : Statement (.shld adr) := fun _ => decode_bytesF3 rfl adr

theorem ldax (p : PairIdx) : Statement (.ldax p) := by
  intro _ rest
  cases p <;> exact decode_f1 rfl rest

theorem stax (p : PairIdx) : Statement (.stax p) := by
  intro _ rest
  cases p <;> exact decode_f1 rfl rest

theorem xchg : Statement (.xchg) := fun _ => decode_f1 rfl

theorem inrR (dst : Reg8) : Statement (.inrR dst) := by
  intro _ rest
  cases dst <;> exact decode_f1 rfl rest

theorem inrM : Statement (.inrM) := fun _ => decode_f1 rfl

theorem dcrR (dst : Reg8) : Statement (.dcrR dst) := by
  intro _ rest
  cases dst <;> exact decode_f1 rfl rest

theorem dcrM : Statement (.dcrM) := fun _ => decode_f1 rfl

theorem inx (p : PairSp) : Statement (.inx p) := by
  intro _ rest
  rcases p with (_ | _ | _) | _ <;> exact decode_f1 rfl rest

theorem dcx (p : PairSp) : Statement (.dcx p) := by
  intro _ rest
  rcases p with (_ | _ | _) | _ <;> exact decode_f1 rfl rest

theorem dad (p : PairSp) : Statement (.dad p) := by
  intro _ rest
  rcases p with (_ | _ | _) | _ <;> exact decode_f1 rfl rest

theorem add (o : Operand8) : Statement (.add o) := by
  intro _ rest
  rcases o with (_ | _ | _ | _ | _ | _ | _) | _ <;> exact decode_f1 rfl rest

theorem adc (o : Operand8) : Statement (.adc o) := by
  intro _ rest
  rcases o with (_ | _ | _ | _ | _ | _ | _) | _ <;> exact decode_f1 rfl rest

theorem sub (o : Operand8) : Statement (.sub o) := by
  intro _ rest
  rcases o with (_ | _ | _ | _ | _ | _ | _) | _ <;> exact decode_f1 rfl rest

theorem sbb (o : Operand8) : Statement (.sbb o) := by
  intro _ rest
  rcases o with (_ | _ | _ | _ | _ | _ | _) | _ <;> exact decode_f1 rfl rest

theorem adi (v : Byte) : Statement (.adi v) := fun _ => decode_bytesF2 rfl v

theorem aci (v : Byte) : Statement (.aci v) := fun _ => decode_bytesF2 rfl v

theorem sui (v : Byte) : Statement (.sui v) := fun _ => decode_bytesF2 rfl v

theorem sbi (v : Byte) : Statement (.sbi v) := fun _ => decode_bytesF2 rfl v

theorem ana (o : Operand8) : Statement (.ana o) := by
  intro _ rest
  rcases o with (_ | _ | _ | _ | _ | _ | _) | _ <;> exact decode_f1 rfl rest

theorem xra (o : Operand8) : Statement (.xra o) := by
  intro _ rest
  rcases o with (_ | _ | _ | _ | _ | _ | _) | _ <;> exact decode_f1 rfl rest

theorem ora (o : Operand8) : Statement (.ora o) := by
  intro _ rest
  rcases o with (_ | _ | _ | _ | _ | _ | _) | _ <;> exact decode_f1 rfl rest

theorem cmp (o : Operand8) : Statement (.cmp o) := by
  intro _ rest
  rcases o with (_ | _ | _ | _ | _ | _ | _) | _ <;> exact decode_f1 rfl rest

theorem ani (v : Byte) : Statement (.ani v) := fun _ => decode_bytesF2 rfl v

theorem xri (v : Byte) : Statement (.xri v) := fun _ => decode_bytesF2 rfl v

theorem ori (v : Byte) : Statement (.ori v) := fun _ => decode_bytesF2 rfl v

theorem cpi (v : Byte) : Statement (.cpi v) := fun _ => decode_bytesF2 rfl v

theorem cma : Statement (.cma) := fun _ => decode_f1 rfl

theorem stc : Statement (.stc) := fun _ => decode_f1 rfl

theorem cmc : Statement (.cmc) := fun _ => decode_f1 rfl

theorem rlc : Statement (.rlc) := fun _ => decode_f1 rfl

theorem rrc : Statement (.rrc) := fun _ => decode_f1 rfl

theorem ral : Statement (.ral) := fun _ => decode_f1 rfl

theorem rar : Statement (.rar) := fun _ => decode_f1 rfl

theorem daa : Statement (.daa) := fun _ => decode_f1 rfl

theorem jmp (adr : Word) : Statement (.jmp adr) := fun _ => decode_bytesF3 rfl adr

theorem jnz (adr : Word) : Statement (.jnz adr) := fun _ => decode_bytesF3 rfl adr

theorem jz (adr : Word) : Statement (.jz adr) := fun _ => decode_bytesF3 rfl adr

theorem jnc (adr : Word) : Statement (.jnc adr) := fun _ => decode_bytesF3 rfl adr

theorem jc (adr : Word) : Statement (.jc adr) := fun _ => decode_bytesF3 rfl adr

theorem jpo (adr : Word) : Statement (.jpo adr) := fun _ => decode_bytesF3 rfl adr

theorem jpe (adr : Word) : Statement (.jpe adr) := fun _ => decode_bytesF3 rfl adr

theorem jp (adr : Word) : Statement (.jp adr) := fun _ => decode_bytesF3 rfl adr

theorem jm (adr : Word) : Statement (.jm adr) := fun _ => decode_bytesF3 rfl adr

theorem pchl : Statement (.pchl) := fun _ => decode_f1 rfl

theorem call (adr : Word) : Statement (.call adr) := fun _ => decode_bytesF3 rfl adr

theorem cnz (adr : Word) : Statement (.cnz adr) := fun _ => decode_bytesF3 rfl adr

theorem cz (adr : Word) : Statement (.cz adr) := fun _ => decode_bytesF3 rfl adr

theorem cnc (adr : Word) : Statement (.cnc adr) := fun _ => decode_bytesF3 rfl adr

theorem cc (adr : Word) : Statement (.cc adr) := fun _ => decode_bytesF3 rfl adr

theorem cpo (adr : Word) : Statement (.cpo adr) := fun _ => decode_bytesF3 rfl adr

theorem cpe (adr : Word) : Statement (.cpe adr) := fun _ => decode_bytesF3 rfl adr

theorem cp (adr : Word) : Statement (.cp adr) := fun _ => decode_bytesF3 rfl adr

theorem cm (adr : Word) : Statement (.cm adr) := fun _ => decode_bytesF3 rfl adr

theorem ret : Statement (.ret) := fun _ => decode_f1 rfl

theorem rnz : Statement (.rnz) := fun _ => decode_f1 rfl

theorem rz : Statement (.rz) := fun _ => decode_f1 rfl

theorem rnc : Statement (.rnc) := fun _ => decode_f1 rfl

theorem rc : Statement (.rc) := fun _ => decode_f1 rfl

theorem rpo : Statement (.rpo) := fun _ => decode_f1 rfl

theorem rpe : Statement (.rpe) := fun _ => decode_f1 rfl

theorem rp : Statement (.rp) := fun _ => decode_f1 rfl

theorem rm : Statement (.rm) := fun _ => decode_f1 rfl

theorem rst (n : BitVec 3) : Statement (.rst n) := by
  intro _ rest
  rcases bits3_cases n with rfl | rfl | rfl | rfl | rfl | rfl | rfl | rfl <;> exact decode_f1 rfl rest

theorem push (p : Pair) : Statement (.push p) := by
  intro _ rest
  cases p <;> exact decode_f1 rfl rest

theorem pushPsw : Statement (.pushPsw) := fun _ => decode_f1 rfl

theorem pop (p : Pair) : Statement (.pop p) := by
  intro _ rest
  cases p <;> exact decode_f1 rfl rest

theorem popPsw : Statement (.popPsw) := fun _ => decode_f1 rfl

theorem xthl : Statement (.xthl) := fun _ => decode_f1 rfl

theorem sphl : Statement (.sphl) := fun _ => decode_f1 rfl

theorem inp (n : Byte) : Statement (.inp n) := fun _ => decode_bytesF2 rfl n

theorem out (n : Byte) : Statement (.out n) := fun _ => decode_bytesF2 rfl n

theorem nop : Statement (.nop) := fun _ => decode_f1 rfl

theorem hlt : Statement (.hlt) := fun _ => decode_f1 rfl

theorem di : Statement (.di) := fun _ => decode_f1 rfl

theorem ei : Statement (.ei) := fun _ => decode_f1 rfl

theorem undocNop (n : BitVec 3) : Statement (.undocNop n) := by
  intro h rest
  rcases bits3_cases n with rfl | rfl | rfl | rfl | rfl | rfl | rfl | rfl
  · exact absurd h (by decide)
  all_goals exact decode_f1 rfl rest

theorem undocJmp (adr : Word) : Statement (.undocJmp adr) := fun _ => decode_bytesF3 rfl adr

theorem undocRet : Statement (.undocRet) := fun _ => decode_f1 rfl

theorem undocCall (x : BitVec 2) (adr : Word) : Statement (.undocCall x adr) := by
  intro h rest
  rcases bits2_cases x with rfl | rfl | rfl | rfl
  · simp [Instr.wellFormed] at h
  all_goals exact decode_bytesF3 rfl adr rest

end Sys2Proof.Laws.DecodeEncode
end

