-- ==== Sys2Proof/Tests/Slice0.lean ====
section
/-! SUPPORT. The model's own tests: well-formedness, decoding of every opcode value, the vectors of 95_test_vectors.md, and a
witness for the hypotheses of each statement that has some. Expected values come from spec/. -/

namespace Sys2Proof.Tests.Slice0

open Sys2Proof.Machine Sys2Proof.Safety

/-! ## Well-formedness -/

theorem test_wellFormed_refuses_undocNop_zero : Instr.wellFormed (.undocNop 0) = false := by decide

theorem test_wellFormed_refuses_undocCall_zero : Instr.wellFormed (.undocCall 0 0x1234) = false := by decide

theorem test_wellFormed_accepts :
    [Instr.undocNop 1, .undocNop 7, .undocCall 1 0, .undocCall 3 0, .nop, .hlt, .rst 0].all Instr.wellFormed = true := by
  decide

/-- A list that ends too early is rejected by name (30_encoding.md R72). -/
theorem test_decode_rejects_truncated :
    (match decode [] with | .error .noOpcode => true | _ => false)
      && (match decode [0x3E] with | .error (.missingOperand 0x3E) => true | _ => false)
      && (match decode [0xC3, 0x00] with | .error (.missingOperand 0xC3) => true | _ => false) = true := by
  decide

/-- Operand words of zeros, numbered as the table numbers them. -/
theorem test_decodeTableWord :
    [decodeTableWord 8 0x76, decodeTableWord 8 0xC3, decodeTableWord 24 0x1234C3, decodeTableWord 16 0x12343E]
      = [some .hlt, some (.jmp 0), some (.jmp 0x1234), some (.mviR .a 0x34)] := by
  decide

/-! ## Decoding: every row of spec/opcode_table.json

One theorem for each high nibble of the opcode. The rows are written from the table's mnemonic and operand columns; the
operand bytes are 0x34, 0x12, so that a 16-bit operand is 0x1234 and an 8-bit one 0x34. -/

/-- What the opcode and the bytes 0x34, 0x12 decode to, and how many of those two bytes are left. -/
def decodedRow (op : Byte) : Option (Instr × Nat) :=
  match decode [op, 0x34, 0x12] with
  | .ok (i, rest) => some (i, rest.length)
  | .error _ => none

theorem test_decode_row_0 :
    [0x00, 0x01, 0x02, 0x03, 0x04, 0x05, 0x06, 0x07, 0x08, 0x09, 0x0A, 0x0B, 0x0C, 0x0D, 0x0E, 0x0F].map decodedRow
    = [some (.nop, 2), some (.lxi (.pair .bc) 0x1234, 0), some (.stax .bc, 2), some (.inx (.pair .bc), 2),
     some (.inrR .b, 2), some (.dcrR .b, 2), some (.mviR .b 0x34, 1), some (.rlc, 2),
     some (.undocNop 1, 2), some (.dad (.pair .bc), 2), some (.ldax .bc, 2), some (.dcx (.pair .bc), 2),
     some (.inrR .c, 2), some (.dcrR .c, 2), some (.mviR .c 0x34, 1), some (.rrc, 2)] := by
  decide

theorem test_decode_row_1 :
    [0x10, 0x11, 0x12, 0x13, 0x14, 0x15, 0x16, 0x17, 0x18, 0x19, 0x1A, 0x1B, 0x1C, 0x1D, 0x1E, 0x1F].map decodedRow
    = [some (.undocNop 2, 2), some (.lxi (.pair .de) 0x1234, 0), some (.stax .de, 2), some (.inx (.pair .de), 2),
     some (.inrR .d, 2), some (.dcrR .d, 2), some (.mviR .d 0x34, 1), some (.ral, 2),
     some (.undocNop 3, 2), some (.dad (.pair .de), 2), some (.ldax .de, 2), some (.dcx (.pair .de), 2),
     some (.inrR .e, 2), some (.dcrR .e, 2), some (.mviR .e 0x34, 1), some (.rar, 2)] := by
  decide

theorem test_decode_row_2 :
    [0x20, 0x21, 0x22, 0x23, 0x24, 0x25, 0x26, 0x27, 0x28, 0x29, 0x2A, 0x2B, 0x2C, 0x2D, 0x2E, 0x2F].map decodedRow
    = [some (.undocNop 4, 2), some (.lxi (.pair .hl) 0x1234, 0), some (.shld 0x1234, 0), some (.inx (.pair .hl), 2),
     some (.inrR .h, 2), some (.dcrR .h, 2), some (.mviR .h 0x34, 1), some (.daa, 2),
     some (.undocNop 5, 2), some (.dad (.pair .hl), 2), some (.lhld 0x1234, 0), some (.dcx (.pair .hl), 2),
     some (.inrR .l, 2), some (.dcrR .l, 2), some (.mviR .l 0x34, 1), some (.cma, 2)] := by
  decide

theorem test_decode_row_3 :
    [0x30, 0x31, 0x32, 0x33, 0x34, 0x35, 0x36, 0x37, 0x38, 0x39, 0x3A, 0x3B, 0x3C, 0x3D, 0x3E, 0x3F].map decodedRow
    = [some (.undocNop 6, 2), some (.lxi .sp 0x1234, 0), some (.sta 0x1234, 0), some (.inx .sp, 2),
     some (.inrM, 2), some (.dcrM, 2), some (.mviM 0x34, 1), some (.stc, 2),
     some (.undocNop 7, 2), some (.dad .sp, 2), some (.lda 0x1234, 0), some (.dcx .sp, 2),
     some (.inrR .a, 2), some (.dcrR .a, 2), some (.mviR .a 0x34, 1), some (.cmc, 2)] := by
  decide

theorem test_decode_row_4 :
    [0x40, 0x41, 0x42, 0x43, 0x44, 0x45, 0x46, 0x47, 0x48, 0x49, 0x4A, 0x4B, 0x4C, 0x4D, 0x4E, 0x4F].map decodedRow
    = [some (.movRR .b .b, 2), some (.movRR .b .c, 2), some (.movRR .b .d, 2), some (.movRR .b .e, 2),
     some (.movRR .b .h, 2), some (.movRR .b .l, 2), some (.movRM .b, 2), some (.movRR .b .a, 2),
     some (.movRR .c .b, 2), some (.movRR .c .c, 2), some (.movRR .c .d, 2), some (.movRR .c .e, 2),
     some (.movRR .c .h, 2), some (.movRR .c .l, 2), some (.movRM .c, 2), some (.movRR .c .a, 2)] := by
  decide

theorem test_decode_row_5 :
    [0x50, 0x51, 0x52, 0x53, 0x54, 0x55, 0x56, 0x57, 0x58, 0x59, 0x5A, 0x5B, 0x5C, 0x5D, 0x5E, 0x5F].map decodedRow
    = [some (.movRR .d .b, 2), some (.movRR .d .c, 2), some (.movRR .d .d, 2), some (.movRR .d .e, 2),
     some (.movRR .d .h, 2), some (.movRR .d .l, 2), some (.movRM .d, 2), some (.movRR .d .a, 2),
     some (.movRR .e .b, 2), some (.movRR .e .c, 2), some (.movRR .e .d, 2), some (.movRR .e .e, 2),
     some (.movRR .e .h, 2), some (.movRR .e .l, 2), some (.movRM .e, 2), some (.movRR .e .a, 2)] := by
  decide

theorem test_decode_row_6 :
    [0x60, 0x61, 0x62, 0x63, 0x64, 0x65, 0x66, 0x67, 0x68, 0x69, 0x6A, 0x6B, 0x6C, 0x6D, 0x6E, 0x6F].map decodedRow
    = [some (.movRR .h .b, 2), some (.movRR .h .c, 2), some (.movRR .h .d, 2), some (.movRR .h .e, 2),
     some (.movRR .h .h, 2), some (.movRR .h .l, 2), some (.movRM .h, 2), some (.movRR .h .a, 2),
     some (.movRR .l .b, 2), some (.movRR .l .c, 2), some (.movRR .l .d, 2), some (.movRR .l .e, 2),
     some (.movRR .l .h, 2), some (.movRR .l .l, 2), some (.movRM .l, 2), some (.movRR .l .a, 2)] := by
  decide

theorem test_decode_row_7 :
    [0x70, 0x71, 0x72, 0x73, 0x74, 0x75, 0x76, 0x77, 0x78, 0x79, 0x7A, 0x7B, 0x7C, 0x7D, 0x7E, 0x7F].map decodedRow
    = [some (.movMR .b, 2), some (.movMR .c, 2), some (.movMR .d, 2), some (.movMR .e, 2),
     some (.movMR .h, 2), some (.movMR .l, 2), some (.hlt, 2), some (.movMR .a, 2),
     some (.movRR .a .b, 2), some (.movRR .a .c, 2), some (.movRR .a .d, 2), some (.movRR .a .e, 2),
     some (.movRR .a .h, 2), some (.movRR .a .l, 2), some (.movRM .a, 2), some (.movRR .a .a, 2)] := by
  decide

theorem test_decode_row_8 :
    [0x80, 0x81, 0x82, 0x83, 0x84, 0x85, 0x86, 0x87, 0x88, 0x89, 0x8A, 0x8B, 0x8C, 0x8D, 0x8E, 0x8F].map decodedRow
    = [some (.add (.reg .b), 2), some (.add (.reg .c), 2), some (.add (.reg .d), 2), some (.add (.reg .e), 2),
     some (.add (.reg .h), 2), some (.add (.reg .l), 2), some (.add .mem, 2), some (.add (.reg .a), 2),
     some (.adc (.reg .b), 2), some (.adc (.reg .c), 2), some (.adc (.reg .d), 2), some (.adc (.reg .e), 2),
     some (.adc (.reg .h), 2), some (.adc (.reg .l), 2), some (.adc .mem, 2), some (.adc (.reg .a), 2)] := by
  decide

theorem test_decode_row_9 :
    [0x90, 0x91, 0x92, 0x93, 0x94, 0x95, 0x96, 0x97, 0x98, 0x99, 0x9A, 0x9B, 0x9C, 0x9D, 0x9E, 0x9F].map decodedRow
    = [some (.sub (.reg .b), 2), some (.sub (.reg .c), 2), some (.sub (.reg .d), 2), some (.sub (.reg .e), 2),
     some (.sub (.reg .h), 2), some (.sub (.reg .l), 2), some (.sub .mem, 2), some (.sub (.reg .a), 2),
     some (.sbb (.reg .b), 2), some (.sbb (.reg .c), 2), some (.sbb (.reg .d), 2), some (.sbb (.reg .e), 2),
     some (.sbb (.reg .h), 2), some (.sbb (.reg .l), 2), some (.sbb .mem, 2), some (.sbb (.reg .a), 2)] := by
  decide

theorem test_decode_row_A :
    [0xA0, 0xA1, 0xA2, 0xA3, 0xA4, 0xA5, 0xA6, 0xA7, 0xA8, 0xA9, 0xAA, 0xAB, 0xAC, 0xAD, 0xAE, 0xAF].map decodedRow
    = [some (.ana (.reg .b), 2), some (.ana (.reg .c), 2), some (.ana (.reg .d), 2), some (.ana (.reg .e), 2),
     some (.ana (.reg .h), 2), some (.ana (.reg .l), 2), some (.ana .mem, 2), some (.ana (.reg .a), 2),
     some (.xra (.reg .b), 2), some (.xra (.reg .c), 2), some (.xra (.reg .d), 2), some (.xra (.reg .e), 2),
     some (.xra (.reg .h), 2), some (.xra (.reg .l), 2), some (.xra .mem, 2), some (.xra (.reg .a), 2)] := by
  decide

theorem test_decode_row_B :
    [0xB0, 0xB1, 0xB2, 0xB3, 0xB4, 0xB5, 0xB6, 0xB7, 0xB8, 0xB9, 0xBA, 0xBB, 0xBC, 0xBD, 0xBE, 0xBF].map decodedRow
    = [some (.ora (.reg .b), 2), some (.ora (.reg .c), 2), some (.ora (.reg .d), 2), some (.ora (.reg .e), 2),
     some (.ora (.reg .h), 2), some (.ora (.reg .l), 2), some (.ora .mem, 2), some (.ora (.reg .a), 2),
     some (.cmp (.reg .b), 2), some (.cmp (.reg .c), 2), some (.cmp (.reg .d), 2), some (.cmp (.reg .e), 2),
     some (.cmp (.reg .h), 2), some (.cmp (.reg .l), 2), some (.cmp .mem, 2), some (.cmp (.reg .a), 2)] := by
  decide

theorem test_decode_row_C :
    [0xC0, 0xC1, 0xC2, 0xC3, 0xC4, 0xC5, 0xC6, 0xC7, 0xC8, 0xC9, 0xCA, 0xCB, 0xCC, 0xCD, 0xCE, 0xCF].map decodedRow
    = [some (.rnz, 2), some (.pop .bc, 2), some (.jnz 0x1234, 0), some (.jmp 0x1234, 0),
     some (.cnz 0x1234, 0), some (.push .bc, 2), some (.adi 0x34, 1), some (.rst 0, 2),
     some (.rz, 2), some (.ret, 2), some (.jz 0x1234, 0), some (.undocJmp 0x1234, 0),
     some (.cz 0x1234, 0), some (.call 0x1234, 0), some (.aci 0x34, 1), some (.rst 1, 2)] := by
  decide

theorem test_decode_row_D :
    [0xD0, 0xD1, 0xD2, 0xD3, 0xD4, 0xD5, 0xD6, 0xD7, 0xD8, 0xD9, 0xDA, 0xDB, 0xDC, 0xDD, 0xDE, 0xDF].map decodedRow
    = [some (.rnc, 2), some (.pop .de, 2), some (.jnc 0x1234, 0), some (.out 0x34, 1),
     some (.cnc 0x1234, 0), some (.push .de, 2), some (.sui 0x34, 1), some (.rst 2, 2),
     some (.rc, 2), some (.undocRet, 2), some (.jc 0x1234, 0), some (.inp 0x34, 1),
     some (.cc 0x1234, 0), some (.undocCall 1 0x1234, 0), some (.sbi 0x34, 1), some (.rst 3, 2)] := by
  decide

theorem test_decode_row_E :
    [0xE0, 0xE1, 0xE2, 0xE3, 0xE4, 0xE5, 0xE6, 0xE7, 0xE8, 0xE9, 0xEA, 0xEB, 0xEC, 0xED, 0xEE, 0xEF].map decodedRow
    = [some (.rpo, 2), some (.pop .hl, 2), some (.jpo 0x1234, 0), some (.xthl, 2),
     some (.cpo 0x1234, 0), some (.push .hl, 2), some (.ani 0x34, 1), some (.rst 4, 2),
     some (.rpe, 2), some (.pchl, 2), some (.jpe 0x1234, 0), some (.xchg, 2),
     some (.cpe 0x1234, 0), some (.undocCall 2 0x1234, 0), some (.xri 0x34, 1), some (.rst 5, 2)] := by
  decide

theorem test_decode_row_F :
    [0xF0, 0xF1, 0xF2, 0xF3, 0xF4, 0xF5, 0xF6, 0xF7, 0xF8, 0xF9, 0xFA, 0xFB, 0xFC, 0xFD, 0xFE, 0xFF].map decodedRow
    = [some (.rp, 2), some (.popPsw, 2), some (.jp 0x1234, 0), some (.di, 2),
     some (.cp 0x1234, 0), some (.pushPsw, 2), some (.ori 0x34, 1), some (.rst 6, 2),
     some (.rm, 2), some (.sphl, 2), some (.jm 0x1234, 0), some (.ei, 2),
     some (.cm 0x1234, 0), some (.undocCall 3 0x1234, 0), some (.cpi 0x34, 1), some (.rst 7, 2)] := by
  decide

/-! ## Steps: the vectors of 95_test_vectors.md section 2 -/

/-- The reset state with PC = 0x0100, as the vectors' conventions say. -/
def start : State := { State.reset with pc := 0x0100 }

/-- The start state with the given registers. -/
def withRegs (f : Regs) : State := { start with regs := f }

/-- The start state with A and the flags given. -/
def withA (x : Byte) (f : Flags) : State := { start with regs := { Regs.zero with a := x }, flags := f }

/-- The state with bytes loaded. -/
def loaded (bs : List Byte) (adr : Word) (s : State) : State := { s with mem := loadBytes bs adr s.mem }

/-- The state after one step that executes the bytes at PC. -/
def ran (bs : List Byte) (s : State) : State := hostStep (loaded bs s.pc s)

/-- The state with a write-protected range. -/
def rom (lo hi : Word) (s : State) : State := { s with params := { s.params with romLo := lo, romHi := hi } }

/-- A, then S Z AC P CY, as section 2.3 lists results. -/
def accAndFlags (s : State) : Byte × Flags := (s.regs.a, s.flags)

/-- Flags in the order S Z AC P CY, as 0 and 1. -/
def fl (s z ac p cy : Nat) : Flags := ⟨s = 1, z = 1, ac = 1, p = 1, cy = 1⟩

/-! ### Data transfer (section 2.1) -/

theorem test_mov_b_c :
    (let t := ran [0x41] (withRegs { Regs.zero with b := 0x12, c := 0x34 }); (t.regs.b, t.regs.c, t.pc))
      = (0x34, 0x34, 0x0101) := by decide

theorem test_mov_h_m :
    (let t := ran [0x66] (loaded [0xAB] 0x2010 (withRegs { Regs.zero with h := 0x20, l := 0x10 })); (t.regs.h, t.regs.l))
      = (0xAB, 0x10) := by decide

theorem test_mov_m_a_stores :
    memRead 0x3000 (ran [0x77] (withRegs { Regs.zero with h := 0x30, a := 0x5A })) = 0x5A := by decide

theorem test_mov_m_a_protected :
    (let t := ran [0x77] (rom 0x0000 0x3FFF (loaded [0x11] 0x3000 (withRegs { Regs.zero with h := 0x30, a := 0x5A })));
     (memRead 0x3000 t, t.pc)) = (0x11, 0x0101) := by decide

theorem test_mvi : ((ran [0x3E, 0x42] start).regs.a, (ran [0x3E, 0x42] start).pc) = (0x42, 0x0102) := by decide

theorem test_mvi_m : memRead 0x2400 (ran [0x36, 0xFF] (withRegs { Regs.zero with h := 0x24 })) = 0xFF := by decide

theorem test_lxi_h : ((ran [0x21, 0x34, 0x12] start).regs.h, (ran [0x21, 0x34, 0x12] start).regs.l) = (0x12, 0x34) := by
  decide

theorem test_lxi_sp : ((ran [0x31, 0x00, 0x24] start).sp, (ran [0x31, 0x00, 0x24] start).pc) = (0x2400, 0x0103) := by decide

theorem test_lda : (ran [0x3A, 0x00, 0x20] (loaded [0x77] 0x2000 start)).regs.a = 0x77 := by decide

theorem test_sta : memRead 0x1234 (ran [0x32, 0x34, 0x12] (withA 0x99 (fl 0 0 0 0 0))) = 0x99 := by decide

theorem test_lhld_wraps :
    (let t := ran [0x2A, 0xFF, 0xFF] (loaded [0x11, 0x22] 0xFFFF start); (t.regs.l, t.regs.h)) = (0x11, 0x22) := by decide

theorem test_shld_straddles_protection :
    (let t := ran [0x22, 0xFF, 0x1F] (rom 0x0000 0x1FFF (loaded [0x55] 0x1FFF
        (withRegs { Regs.zero with h := 0xAE, l := 0x29 })));
     (memRead 0x1FFF t, memRead 0x2000 t)) = (0x55, 0xAE) := by decide

theorem test_ldax_d :
    (ran [0x1A] (loaded [0x11] 0x938B (withRegs { Regs.zero with d := 0x93, e := 0x8B }))).regs.a = 0x11 := by decide

theorem test_stax_b :
    memRead 0x3F16 (ran [0x02] (withRegs { Regs.zero with b := 0x3F, c := 0x16, a := 0x08 })) = 0x08 := by decide

theorem test_xchg :
    (ran [0xEB] (withRegs { Regs.zero with d := 0x33, e := 0x55, l := 0xFF })).regs
      = { Regs.zero with d := 0x00, e := 0xFF, h := 0x33, l := 0x55 } := by decide

/-! ### Increment, decrement, DAD (section 2.2) -/

theorem test_inr :
    [0x00, 0x0F, 0x7F, 0xFF].map (fun v => accAndFlags (ran [0x3C] (withA v (fl 0 0 0 0 0))))
      = [(0x01, fl 0 0 0 0 0), (0x10, fl 0 0 1 0 0), (0x80, fl 1 0 1 0 0), (0x00, fl 0 1 1 1 0)] := by decide

theorem test_dcr :
    [0x00, 0x01, 0x10, 0x80].map (fun v => accAndFlags (ran [0x3D] (withA v (fl 0 0 0 0 1))))
      = [(0xFF, fl 1 0 0 1 1), (0x00, fl 0 1 1 1 1), (0x0F, fl 0 0 0 1 1), (0x7F, fl 0 0 0 0 1)] := by decide

theorem test_inr_m :
    (let t := ran [0x34] (loaded [0xFF] 0x2500 { withRegs { Regs.zero with h := 0x25 } with flags := fl 0 0 0 0 1 });
     (memRead 0x2500 t, t.flags)) = (0x00, fl 0 1 1 1 1) := by decide

theorem test_dcr_m :
    (let t := ran [0x35] (loaded [0x40] 0x3A7C (withRegs { Regs.zero with h := 0x3A, l := 0x7C }));
     (memRead 0x3A7C t, t.flags.s, t.flags.z, t.flags.ac)) = (0x3F, false, false, false) := by decide

theorem test_inx :
    (let t := ran [0x13] (withRegs { Regs.zero with d := 0x38, e := 0xFF }); (t.regs.d, t.regs.e)) = (0x39, 0x00)
      ∧ (ran [0x33] { start with sp := 0xFFFF }).sp = 0x0000 := by decide

theorem test_dcx :
    (let t := ran [0x2B] (withRegs { Regs.zero with h := 0x98 }); (t.regs.h, t.regs.l)) = (0x97, 0xFF)
      ∧ (let t := ran [0x0B] start; (t.regs.b, t.regs.c, t.flags)) = (0xFF, 0xFF, fl 0 0 0 0 0) := by decide

theorem test_dad_b :
    (let t := ran [0x09] (withRegs { Regs.zero with b := 0x33, c := 0x9F, h := 0xA1, l := 0x7B });
     (t.regs.h, t.regs.l, t.flags.cy)) = (0xD5, 0x1A, false) := by decide

theorem test_dad_carries :
    (let t := ran [0x29] (withRegs { Regs.zero with h := 0x80 }); (t.regs.h, t.regs.l, t.flags))
      = (0x00, 0x00, fl 0 0 0 0 1) := by decide

/-! ### Arithmetic (section 2.3) -/

/-- Operand B, A and CY as given, one group-2 opcode. -/
def aluB (op a b : Byte) (cy : Bool) : Byte × Flags :=
  accAndFlags (ran [op] { start with regs := { Regs.zero with a := a, b := b }, flags := { Flags.zero with cy := cy } })

theorem test_add :
    [aluB 0x80 0x0F 0x01 false, aluB 0x80 0x0E 0x01 false, aluB 0x80 0x80 0x80 true, aluB 0x80 0x6C 0x2E true]
      = [(0x10, fl 0 0 1 0 0), (0x0F, fl 0 0 0 1 0), (0x00, fl 0 1 0 1 1), (0x9A, fl 1 0 1 1 0)] := by decide

theorem test_adc :
    [aluB 0x88 0xFF 0xFF true, aluB 0x88 0xFF 0x00 true, aluB 0x88 0x0F 0x00 true, aluB 0x88 0x3D 0x42 true]
      = [(0xFF, fl 1 0 1 1 1), (0x00, fl 0 1 1 1 1), (0x10, fl 0 0 1 0 0), (0x80, fl 1 0 1 0 0)] := by decide

theorem test_sub :
    [aluB 0x90 0x00 0x01 true, aluB 0x90 0x3E 0x40 true, aluB 0x90 0x05 0x03 false, aluB 0x90 0x00 0x00 false]
      = [(0xFF, fl 1 0 0 1 1), (0xFE, fl 1 0 1 0 1), (0x02, fl 0 0 1 0 0), (0x00, fl 0 1 1 1 0)] := by decide

theorem test_sbb :
    [aluB 0x98 0x00 0xFF true, aluB 0x98 0x10 0x0F true, aluB 0x98 0xFF 0xFF true, aluB 0x98 0x04 0x02 true]
      = [(0x00, fl 0 1 0 1 1), (0x00, fl 0 1 0 1 0), (0xFF, fl 1 0 0 1 1), (0x01, fl 0 0 1 0 0)] := by decide

theorem test_add_m :
    accAndFlags (ran [0x86] (loaded [0x01] 0x2000 (withRegs { Regs.zero with a := 0x10, h := 0x20 })))
      = (0x11, fl 0 0 0 1 0) := by decide

theorem test_alu_immediate :
    [ran [0xC6, 0xBE] (withA 0x56 (fl 0 0 0 0 0)), ran [0xCE, 0x42] (withA 0x14 (fl 0 0 0 0 1)),
      ran [0xD6, 0x01] (withA 0x00 (fl 0 0 0 0 0)), ran [0xDE, 0x01] (withA 0x00 (fl 0 0 0 0 1))].map accAndFlags
      = [(0x14, fl 0 0 1 1 1), (0x57, fl 0 0 0 0 0), (0xFF, fl 1 0 0 1 1), (0xFE, fl 1 0 0 0 1)] := by decide

/-! ### Logical, compare, complement and carry (section 2.4) -/

theorem test_ana :
    [aluB 0xA0 0xFC 0x0F true, aluB 0xA0 0x08 0x00 false, aluB 0xA0 0x00 0x08 false, aluB 0xA0 0xF7 0xF7 false]
      = [(0x0C, fl 0 0 1 1 0), (0x00, fl 0 1 1 1 0), (0x00, fl 0 1 1 1 0), (0xF7, fl 1 0 0 0 0)] := by decide

theorem test_xra_ora :
    [aluB 0xA8 0x5A 0xA5 true, aluB 0xA8 0x0F 0x01 true, aluB 0xB0 0x80 0x01 true, aluB 0xB0 0x00 0x00 true]
      = [(0xFF, fl 1 0 0 1 0), (0x0E, fl 0 0 0 0 0), (0x81, fl 1 0 0 1 0), (0x00, fl 0 1 0 1 0)] := by decide

theorem test_cmp :
    [aluB 0xB8 0x0A 0x05 true, aluB 0xB8 0x02 0x05 false, aluB 0xB8 0x4A 0x4A true, aluB 0xB8 0x80 0x7F false]
      = [(0x0A, fl 0 0 1 1 0), (0x02, fl 1 0 0 0 1), (0x4A, fl 0 1 1 1 0), (0x80, fl 0 0 0 0 0)] := by decide

theorem test_logic_immediate :
    [ran [0xE6, 0x0F] (withA 0x3A (fl 0 0 0 0 1)), ran [0xEE, 0x81] (withA 0x3B (fl 0 0 1 0 1)),
      ran [0xF6, 0x0F] (withA 0xB5 (fl 0 0 1 0 1)), ran [0xFE, 0x40] (withA 0x4A (fl 0 0 0 0 1))].map accAndFlags
      = [(0x0A, fl 0 0 1 1 0), (0xBA, fl 1 0 0 0 0), (0xBF, fl 1 0 0 0 0), (0x4A, fl 0 0 1 1 0)] := by decide

theorem test_cma_stc_cmc :
    [ran [0x2F] (withA 0x51 (fl 1 1 1 1 1)), ran [0x37] (withA 0x51 (fl 1 0 1 0 0)), ran [0x3F] (withA 0x51 (fl 1 0 1 0 1)),
      ran [0x3F] (withA 0x51 (fl 0 1 0 1 0))].map accAndFlags
      = [(0xAE, fl 1 1 1 1 1), (0x51, fl 1 0 1 0 1), (0x51, fl 1 0 1 0 0), (0x51, fl 0 1 0 1 1)] := by decide

/-! ### DAA and rotates (sections 2.5, 2.6) -/

/-- DAA on A, CY, AC. -/
def daaOn (x : Byte) (cy ac : Nat) : Byte × Flags := accAndFlags (ran [0x27] (withA x (fl 0 0 ac 0 cy)))

theorem test_daa_no_carry_in :
    [daaOn 0x00 0 0, daaOn 0x0A 0 0, daaOn 0x12 0 1, daaOn 0x99 0 0, daaOn 0x9A 0 0, daaOn 0x9B 0 0, daaOn 0xA0 0 0,
      daaOn 0xBB 0 0, daaOn 0xFB 0 0]
      = [(0x00, fl 0 1 0 1 0), (0x10, fl 0 0 1 0 0), (0x18, fl 0 0 0 1 0), (0x99, fl 1 0 0 1 0), (0x00, fl 0 1 1 1 1),
        (0x01, fl 0 0 1 0 1), (0x00, fl 0 1 0 1 1), (0x21, fl 0 0 1 1 1), (0x61, fl 0 0 1 0 1)] := by decide

theorem test_daa_carry_in :
    [daaOn 0x12 1 0, daaOn 0x00 1 1, daaOn 0x66 1 1, daaOn 0xFF 1 1]
      = [(0x72, fl 0 0 0 1 1), (0x66, fl 0 0 0 1 1), (0xCC, fl 1 0 0 1 1), (0x65, fl 0 0 1 1 1)] := by decide

theorem test_rlc_rrc :
    [ran [0x07] (withA 0xF2 (fl 0 0 0 0 0)), ran [0x07] (withA 0x00 (fl 0 0 0 0 1)), ran [0x0F] (withA 0x01 (fl 0 1 1 0 0)),
      ran [0x0F] (withA 0x80 (fl 1 0 0 1 1))].map accAndFlags
      = [(0xE5, fl 0 0 0 0 1), (0x00, fl 0 0 0 0 0), (0x80, fl 0 1 1 0 1), (0x40, fl 1 0 0 1 0)] := by decide

theorem test_ral_rar :
    [ran [0x17] (withA 0xB5 (fl 0 0 0 0 0)), ran [0x17] (withA 0x00 (fl 0 0 0 0 1)), ran [0x1F] (withA 0x6A (fl 0 0 0 0 1)),
      ran [0x1F] (withA 0x01 (fl 0 0 0 0 0))].map accAndFlags
      = [(0x6A, fl 0 0 0 0 1), (0x01, fl 0 0 0 0 0), (0xB5, fl 0 0 0 0 0), (0x00, fl 0 0 0 0 1)] := by decide

/-! ### Jumps, calls, returns (sections 2.7, 2.8) -/

/-- PC and SP after one step at 0x0100 with SP = 0x2400. -/
def flow (bs : List Byte) (f : Flags) : Word × Word :=
  let t := ran bs { start with flags := f, sp := 0x2400 }
  (t.pc, t.sp)

/-- The flags of `flow`, each one flag away from all clear or all set. -/
theorem test_jumps_taken :
    [flow [0xC3, 0x00, 0x3E] (fl 0 0 0 0 0), flow [0xC2, 0x50, 0x01] (fl 1 0 1 1 1), flow [0xCA, 0x50, 0x01] (fl 0 1 0 0 0),
      flow [0xD2, 0x50, 0x01] (fl 1 1 1 1 0), flow [0xDA, 0x50, 0x01] (fl 0 0 0 0 1), flow [0xE2, 0x50, 0x01] (fl 1 1 1 0 1),
      flow [0xEA, 0x50, 0x01] (fl 0 0 0 1 0), flow [0xF2, 0x50, 0x01] (fl 0 1 1 1 1), flow [0xFA, 0x50, 0x01] (fl 1 0 0 0 0)]
      = (0x3E00, 0x2400) :: List.replicate 8 (0x0150, 0x2400) := by decide

theorem test_jumps_untaken :
    [flow [0xC2, 0x50, 0x01] (fl 0 1 0 0 0), flow [0xCA, 0x50, 0x01] (fl 1 0 1 1 1), flow [0xD2, 0x50, 0x01] (fl 0 0 0 0 1),
      flow [0xDA, 0x50, 0x01] (fl 1 1 1 1 0), flow [0xE2, 0x50, 0x01] (fl 0 0 0 1 0), flow [0xEA, 0x50, 0x01] (fl 1 1 1 0 1),
      flow [0xF2, 0x50, 0x01] (fl 1 0 0 0 0), flow [0xFA, 0x50, 0x01] (fl 0 1 1 1 1)]
      = List.replicate 8 (0x0103, 0x2400) := by decide

theorem test_pchl : (ran [0xE9] (withRegs { Regs.zero with h := 0x41, l := 0x3E })).pc = 0x413E := by decide

theorem test_call :
    (let t := ran [0xCD, 0x00, 0x30] { start with sp := 0x2400 }; (memRead 0x23FF t, memRead 0x23FE t, t.sp, t.pc))
      = (0x01, 0x03, 0x23FE, 0x3000) := by decide

theorem test_call_wraps :
    (let t := ran [0xCD, 0x00, 0x30] start; (memRead 0xFFFF t, memRead 0xFFFE t, t.sp)) = (0x01, 0x03, 0xFFFE) := by decide

theorem test_calls_taken :
    [flow [0xC4, 0x00, 0x30] (fl 1 0 1 1 1), flow [0xCC, 0x00, 0x30] (fl 0 1 0 0 0), flow [0xD4, 0x00, 0x30] (fl 1 1 1 1 0),
      flow [0xDC, 0x00, 0x30] (fl 0 0 0 0 1), flow [0xE4, 0x00, 0x30] (fl 1 1 1 0 1), flow [0xEC, 0x00, 0x30] (fl 0 0 0 1 0),
      flow [0xF4, 0x00, 0x30] (fl 0 1 1 1 1), flow [0xFC, 0x00, 0x30] (fl 1 0 0 0 0)]
      = List.replicate 8 (0x3000, 0x23FE) := by decide

theorem test_calls_untaken :
    [flow [0xC4, 0x00, 0x30] (fl 0 1 0 0 0), flow [0xCC, 0x00, 0x30] (fl 1 0 1 1 1), flow [0xD4, 0x00, 0x30] (fl 0 0 0 0 1),
      flow [0xDC, 0x00, 0x30] (fl 1 1 1 1 0), flow [0xE4, 0x00, 0x30] (fl 0 0 0 1 0), flow [0xEC, 0x00, 0x30] (fl 1 1 1 0 1),
      flow [0xF4, 0x00, 0x30] (fl 1 0 0 0 0), flow [0xFC, 0x00, 0x30] (fl 0 1 1 1 1)]
      = List.replicate 8 (0x0103, 0x2400) := by decide

/-- PC and SP after a return at 0x0100 with 0x0103 on top of the stack. -/
def flowBack (op : Byte) (f : Flags) : Word × Word :=
  let t := ran [op] (loaded [0x03, 0x01] 0x23FE { start with flags := f, sp := 0x23FE })
  (t.pc, t.sp)

theorem test_returns_taken :
    [flowBack 0xC9 (fl 0 0 0 0 0), flowBack 0xC0 (fl 1 0 1 1 1), flowBack 0xC8 (fl 0 1 0 0 0), flowBack 0xD0 (fl 1 1 1 1 0),
      flowBack 0xD8 (fl 0 0 0 0 1), flowBack 0xE0 (fl 1 1 1 0 1), flowBack 0xE8 (fl 0 0 0 1 0), flowBack 0xF0 (fl 0 1 1 1 1),
      flowBack 0xF8 (fl 1 0 0 0 0)]
      = List.replicate 9 (0x0103, 0x2400) := by decide

theorem test_returns_untaken :
    [flowBack 0xC0 (fl 0 1 0 0 0), flowBack 0xC8 (fl 1 0 1 1 1), flowBack 0xD0 (fl 0 0 0 0 1), flowBack 0xD8 (fl 1 1 1 1 0),
      flowBack 0xE0 (fl 0 0 0 1 0), flowBack 0xE8 (fl 1 1 1 0 1), flowBack 0xF0 (fl 1 0 0 0 0), flowBack 0xF8 (fl 0 1 1 1 1)]
      = List.replicate 8 (0x0101, 0x23FE) := by decide

theorem test_ret_wraps :
    (let t := ran [0xC9] (loaded [0x34, 0x12] 0xFFFF { start with sp := 0xFFFF }); (t.pc, t.sp)) = (0x1234, 0x0001) := by
  decide

theorem test_rst :
    (let t := ran [0xD7] { start with pc := 0x1234, sp := 0x2400 }; (memRead 0x23FF t, memRead 0x23FE t, t.sp, t.pc))
      = (0x12, 0x35, 0x23FE, 0x0010) := by decide

/-! ### Stack (section 2.9) -/

theorem test_push_h_wraps :
    (let t := ran [0xE5] { withRegs { Regs.zero with h := 0xAB, l := 0xCD } with sp := 0x0001 };
     (memRead 0x0000 t, memRead 0xFFFF t, t.sp)) = (0xAB, 0xCD, 0xFFFF) := by decide

theorem test_push_psw :
    (let t := ran [0xF5] { withA 0x1F (fl 0 1 0 1 1) with sp := 0x2400 }; (memRead 0x23FF t, memRead 0x23FE t, t.sp))
      = (0x1F, 0x47, 0x23FE) := by decide

theorem test_pop_d :
    (let t := ran [0xD1] (loaded [0x34, 0x12] 0x23FE { start with sp := 0x23FE }); (t.regs.d, t.regs.e, t.sp))
      = (0x12, 0x34, 0x2400) := by decide

theorem test_pop_psw :
    (let t := ran [0xF1] (loaded [0xC3, 0xFF] 0x23FE { start with sp := 0x23FE }); (accAndFlags t, t.sp))
      = ((0xFF, fl 1 1 0 0 1), 0x2400) := by decide

theorem test_xthl :
    (let t := ran [0xE3] (loaded [0xF0, 0x0D] 0x10AD { withRegs { Regs.zero with h := 0x0B, l := 0x3C } with sp := 0x10AD });
     (t.regs.h, t.regs.l, memRead 0x10AD t, memRead 0x10AE t, t.sp)) = (0x0D, 0xF0, 0x3C, 0x0B, 0x10AD) := by decide

theorem test_xthl_protected :
    (let t := ran [0xE3] (rom 0x1000 0x10FF
        (loaded [0xF0, 0x0D] 0x10AD { withRegs { Regs.zero with h := 0x0B, l := 0x3C } with sp := 0x10AD }));
     (t.regs.h, t.regs.l, memRead 0x10AD t, memRead 0x10AE t)) = (0x0D, 0xF0, 0xF0, 0x0D) := by decide

theorem test_sphl : (ran [0xF9] (withRegs { Regs.zero with h := 0x50, l := 0x6C })).sp = 0x506C := by decide

/-! ### Input, output, control (section 2.10) -/

theorem test_in : (ran [0xDB, 0x10] (hostSetInput 0x10 0x5A start)).regs.a = 0x5A := by decide

theorem test_out_loopback :
    (let t := ran [0xD3, 0x02] (withA 0x7E (fl 0 0 0 0 0)); (outPortRead 2 t, portRead 2 t, t.pc)) = (0x7E, 0x7E, 0x0102) := by
  decide

theorem test_out_device :
    (let s := hostSetInput 2 0x11 (withA 0x7E (fl 0 0 0 0 0))
     let t := ran [0xD3, 0x02] { s with params := { s.params with portLoopback := ~~~4#256 } }
     (outPortRead 2 t, portRead 2 t)) = (0x7E, 0x11) := by decide

theorem test_nop_and_undocumented_nops :
    [0x00, 0x08, 0x10, 0x18, 0x20, 0x28, 0x30, 0x38].map (fun op => ran [op] start)
      = [0x00, 0x08, 0x10, 0x18, 0x20, 0x28, 0x30, 0x38].map (fun op => { loaded [op] 0x0100 start with pc := 0x0101 }) := by
  decide

theorem test_hlt :
    (let t := ran [0x76] start; (t.pc, t.halted, hostStep t == t)) = (0x0101, true, true) := by decide

theorem test_hlt_mode_nop :
    (let t := ran [0x76] { start with params := { start.params with hltMode := .nop } }; (t.pc, t.halted))
      = (0x0101, false) := by decide

theorem test_di_ei :
    ((ran [0xF3] { start with inte := true }).inte, (ran [0xFB] start).inte) = (false, true) := by decide

/-! ### Undocumented opcodes, wrap-around, host calls (sections 2.11, 2.12) -/

theorem test_undocumented_jmp_ret :
    flow [0xCB, 0x00, 0x3E] (fl 0 0 0 0 0) = (0x3E00, 0x2400) ∧ flowBack 0xD9 (fl 0 0 0 0 0) = (0x0103, 0x2400) := by decide

theorem test_undocumented_call :
    [0xDD, 0xED, 0xFD].map (fun op =>
        let t := ran [op, 0x00, 0x30] { start with sp := 0x2400 }
        (memRead 0x23FF t, memRead 0x23FE t, t.sp, t.pc))
      = List.replicate 3 (0x01, 0x03, 0x23FE, 0x3000) := by decide

theorem test_fetch_wraps :
    (let t := ran [0x21, 0x34, 0x12] { start with pc := 0xFFFE }; (t.regs.h, t.regs.l, t.pc)) = (0x12, 0x34, 0x0001) := by
  decide

theorem test_store_into_own_operand :
    (let t := ran [0x32, 0x01, 0x01] (withA 0x76 (fl 0 0 0 0 0)); (memRead 0x0101 t, t.pc)) = (0x76, 0x0103) := by decide

theorem test_load_wraps_and_bypasses_protection :
    (hostLoad [0xAA, 0xBB] 0xFFFF (rom 0x0000 0x1FFF State.reset)).map (fun t => (memRead 0xFFFF t, memRead 0x0000 t))
      = some (0xAA, 0xBB) := by decide

theorem test_reset_after_halt :
    (let t := hostReset (ran [0x76] (hostSetInput 3 7 (withA 0x12 (fl 1 1 1 1 1))));
     (t.halted, t.pc, t.regs.a, packPsw t.flags, portRead 3 t, memRead 0x0100 t)) = (false, 0x0000, 0x00, 0x02, 7, 0x76) := by
  decide

/-- The counts of 70_reset_and_hazards.md R293, kept under `HAS_CYCLE_COUNTER = 1`. -/
theorem test_cycle_counter :
    [[0xC4, 0x00, 0x30], [0xCC, 0x00, 0x30], [0xE3], [0x86], [0x80]].map (fun bs =>
        (ran bs { start with params := { start.params with hasCycleCounter := true } }).cyc) = [17, 11, 18, 7, 4]
      ∧ (ran [0x80] start).cyc = 0 := by decide

/-- A word of the opcode table, placed by `withFetchWord`, is what the next step runs. -/
theorem test_withFetchWord :
    (hostStep (State.reset.withFetchWord 8 0x3C)).regs.a = 0x01
      ∧ (hostStep (State.reset.withFetchWord 24 0x1234C3)).pc = 0x1234 := by decide

/-! ## Witnesses: states and operands that meet the hypotheses of the statements -/

/-- The hypotheses of `StepRunsTheDecodedInstruction`. -/
theorem test_witness_StepRunsTheDecodedInstruction :
    let s := loaded [0xC3, 0x34, 0x12] 0xFFFF { start with pc := 0xFFFF }
    ¬ (s.params.hltMode = .halt ∧ s.halted = true)
      ∧ decode [memRead s.pc s, memRead (s.pc + 1) s, memRead (s.pc + 2) s] = .ok (.jmp 0x1234, []) :=
  ⟨by decide, rfl⟩

/-- The hypotheses of `HaltedStepChangesNothing`. -/
theorem test_witness_HaltedStepChangesNothing :
    (ran [0x76] start).params.hltMode = .halt ∧ (ran [0x76] start).halted = true := by decide

/-- The hypothesis of `DecodeInvertsEncode`. -/
theorem test_witness_DecodeInvertsEncode : Instr.wellFormed (.undocCall 3 0xABCD) = true := by decide

/-- The hypothesis of `EncodeInvertsDecode`. -/
theorem test_witness_EncodeInvertsDecode : decode [0x3E, 0x42, 0xFF] = .ok (.mviR .a 0x42, [0xFF]) := rfl

/-- The premise of `Stored` (in the store, push, call and exchange statements), with one address inside and one outside the
protected range. -/
theorem test_witness_Stored :
    let s := rom 0x0000 0x1FFF (loaded [0x55, 0x66] 0x1FFF start)
    Memory.wf s.mem = true ∧ (s.params.romLo ≤ (0x1FFF : Word) ∧ (0x1FFF : Word) ≤ s.params.romHi)
      ∧ ¬ (s.params.romLo ≤ (0x2000 : Word) ∧ (0x2000 : Word) ≤ s.params.romHi) := by decide

/-- The hypotheses of `PairIncrementAndDecrement` and `PairsAreProjectionsOfTheRegisters`. -/
theorem test_witness_pairs :
    PairSp.pair .hl ≠ .sp ∧ Reg8.a ∉ pairRegs (.pair .bc) ∧ Reg8.l ∉ pairRegs (.pair .de) ∧ Reg8.b ∉ pairRegs (.pair .hl)
      ∧ Reg8.c ∉ pairRegs .sp := by decide

/-- The hypotheses of `DecimalAdditionIsCorrect`, at the ends of both ranges. -/
theorem test_witness_DecimalAdditionIsCorrect :
    (99 < 100 ∧ 0 < 100 ∧ (withA 0x99 (fl 0 0 0 0 1)).regs.a = bcd 99)
      ∧ (0 < 100 ∧ 99 < 100 ∧ (withA 0x00 (fl 0 0 0 0 0)).regs.a = bcd 0) := by decide

/-- The hypotheses of `JumpToItselfIsAFixedPoint`. -/
theorem test_witness_JumpToItselfIsAFixedPoint :
    let s := loaded [0xC3, 0x00, 0x01] 0x0100 start
    s.pc = (0x01 : Byte) ++ (0x00 : Byte) ∧ s.params.hasCycleCounter = false ∧ memRead s.pc s = 0xC3
      ∧ memRead (s.pc + 1) s = 0x00 ∧ memRead (s.pc + 2) s = 0x01 := by decide

/-- The hypotheses of `SelfModifiedByteIsFetchedNext`: STA of 0x76 over the next opcode, which the step then halts on. -/
theorem test_witness_SelfModifiedByteIsFetchedNext :
    let s := withA 0x76 (fl 0 0 0 0 0)
    Memory.wf s.mem = true ∧ s.params.hltMode = .halt ∧ s.halted = false
      ∧ ¬ (s.params.hltMode = .halt ∧ s.halted = true)
      ∧ ¬ (s.params.romLo ≤ s.pc ∧ s.pc ≤ s.params.romHi) ∧ s.regs.a = 0x76 := by decide

/-- The hypotheses of `FetchedNext` at each of the three addresses, over the top of memory: HL and BC name the third and the
second byte of a `JMP` at 0xFFFE, and the stored byte stands in its place. -/
theorem test_witness_FetchedNext :
    let s := { loaded [0xC3, 0x34, 0x12] 0xFFFE start with pc := 0xFFFE, regs := ⟨0xFF, 0xFF, 0xFF, 0xFE, 0, 0, 0x56⟩ }
    Memory.wf s.mem = true ∧ ¬ (s.params.hltMode = .halt ∧ s.halted = true)
      ∧ (s.regs.h ++ s.regs.l = s.pc + BitVec.ofNat 16 2 ∧ s.regs.b ++ s.regs.c = s.pc + BitVec.ofNat 16 1
        ∧ s.regs.d ++ s.regs.e = s.pc + BitVec.ofNat 16 0)
      ∧ ¬ (s.params.romLo ≤ (0x0000 : Word) ∧ (0x0000 : Word) ≤ s.params.romHi)
      ∧ ¬ (s.params.romLo ≤ (0xFFFF : Word) ∧ (0xFFFF : Word) ≤ s.params.romHi)
      ∧ ¬ (s.params.romLo ≤ (0xFFFE : Word) ∧ (0xFFFE : Word) ≤ s.params.romHi)
      ∧ (match decode ((bytesFrom s.pc s).set 2 s.regs.a) with | .ok (i, []) => i == .jmp 0x5634 | _ => false) = true
      ∧ (match decode ((bytesFrom s.pc s).set 1 s.regs.a) with | .ok (i, []) => i == .jmp 0x1256 | _ => false) = true
      ∧ (match decode ((bytesFrom s.pc s).set 0 s.regs.a) with | .ok (i, [_, _]) => i == .movRM .d | _ => false) = true := by
  decide

/-- The hypotheses of `CallThenReturnComesBack`, `PushThenPopRestores` and `XthlTwiceRestores`. -/
theorem test_witness_stack_is_writable :
    let s := rom 0x0000 0x1FFF { start with sp := 0x2002 }
    Memory.wf s.mem = true
      ∧ ¬ (s.params.romLo ≤ s.sp - 1 ∧ s.sp - 1 ≤ s.params.romHi)
      ∧ ¬ (s.params.romLo ≤ s.sp - 2 ∧ s.sp - 2 ≤ s.params.romHi)
      ∧ ¬ (s.params.romLo ≤ s.sp ∧ s.sp ≤ s.params.romHi)
      ∧ ¬ (s.params.romLo ≤ s.sp + 1 ∧ s.sp + 1 ≤ s.params.romHi) := by decide

/-- The hypotheses of `InAndOut`, a loopback port and a port beside it. -/
theorem test_witness_InAndOut :
    let s := hostSetInput 255 1 start
    PortBank.wf s.outPorts = true ∧ PortBank.wf s.inPorts = true ∧ s.params.portLoopback.getLsbD (255 : Byte).toNat = true
      ∧ (254 : Byte) ≠ 255 := by decide

/-- The hypotheses of `MachineControlInstructions`, one state for each mode. -/
theorem test_witness_MachineControlInstructions :
    start.params.hltMode = .halt
      ∧ ({ start with params := { start.params with hltMode := .nop } } : State).params.hltMode = .nop := by decide

/-- The hypotheses of `UndocumentedOpcodes`, at the ends of both ranges. -/
theorem test_witness_UndocumentedOpcodes : (1 : BitVec 3) ≠ 0 ∧ (7 : BitVec 3) ≠ 0 ∧ (1 : BitVec 2) ≠ 0 ∧ (3 : BitVec 2) ≠ 0 := by
  decide

/-- The hypotheses of `OnlyListedInstructionsWriteSpAndPc` and `OnlyListedInstructionsWriteMemoryPortsAndControl`. -/
theorem test_witness_OnlyListedInstructions :
    (writesOf (.lxi (.pair .hl) 0)).sp = false ∧ (writesOf .hlt).pc = false ∧ (writesOf .pchl).mem = false
      ∧ (∀ n, Instr.inp 7 ≠ .out n) ∧ Instr.inp 7 ≠ .ei ∧ Instr.inp 7 ≠ .di ∧ Instr.inp 7 ≠ .hlt := by
  refine ⟨by decide, by decide, by decide, fun n => ?_, by decide, by decide, by decide⟩
  exact Instr.noConfusion

/-- The hypotheses of `InteChangesOnlyByEiDiOrReset`, for EI and for DI. -/
theorem test_witness_InteChangesOnlyByEiDiOrReset :
    (let s := loaded [0xFB] 0x0100 start; step s = .next (hostStep s) ∧ (hostStep s).inte ≠ s.inte)
      ∧ (let s := loaded [0xF3] 0x0100 { start with inte := true }; step s = .next (hostStep s) ∧ (hostStep s).inte ≠ s.inte)
      ∧ HostCall.setInput 0 0 ≠ .reset ∧ HostCall.setInput 0 0 ≠ .step :=
  ⟨⟨rfl, by decide⟩, ⟨rfl, by decide⟩, by decide, by decide⟩

/-- The hypothesis of `InteHasNoEffectOnExecution`, on two states that do differ. -/
theorem test_witness_InteHasNoEffectOnExecution :
    SameButInte start { start with inte := true } ∧ start ≠ { start with inte := true } := ⟨rfl, by decide⟩

/-- The hypothesis of `CycleCounterInfluencesNothing`, on two states that do differ. -/
theorem test_witness_CycleCounterInfluencesNothing :
    SameButCyc start { start with cyc := 5 } ∧ start ≠ { start with cyc := 5 } := ⟨rfl, by decide⟩

/-- The hypotheses of `StepKeepsTheStateWellFormed`. -/
theorem test_witness_StepKeepsTheStateWellFormed :
    let s := loaded [0x77] 0x0100 (withA 0x12 (fl 0 0 0 0 0))
    inv s = true ∧ step s = .next (hostStep s) := ⟨by decide, rfl⟩

/-- The hypotheses of `HostRunsKeepTheStateWellFormed`. -/
theorem test_witness_HostRunsKeepTheStateWellFormed :
    Memory.wf [(0x0000, 0xC3), (0xFFFF, 0x01)] = true ∧ PortBank.wf [(0, 1), (255, 2)] = true ∧ PortBank.wf [] = true
      ∧ inv (State.created Config.bareCore [(0x0000, 0xC3), (0xFFFF, 0x01)] [(0, 1), (255, 2)] []) = true := by decide

/-- The hypotheses of `ProtectedBytesChangeOnlyByLoad`, at both ends of the range. -/
theorem test_witness_ProtectedBytesChangeOnlyByLoad :
    let s := rom 0x0000 0x1FFF (loaded [0x77, 0xC3] 0x0000 start)
    (s.params.romLo ≤ (0x0000 : Word) ∧ (0x0000 : Word) ≤ s.params.romHi)
      ∧ (s.params.romLo ≤ (0x1FFF : Word) ∧ (0x1FFF : Word) ≤ s.params.romHi)
      ∧ ∀ x ∈ [HostCall.step, .reset, .writePort 1 2, .setInput 3 4], ∀ bytes origin, x ≠ .load bytes origin := by
  refine ⟨by decide, by decide, fun x hx bytes origin => ?_⟩
  simp only [List.mem_cons, List.not_mem_nil, or_false] at hx
  rcases hx with rfl | rfl | rfl | rfl <;> exact HostCall.noConfusion

/-- The hypotheses of `LoadPlacesTheImage`, on both sides of the limit. -/
theorem test_witness_LoadPlacesTheImage :
    (Memory.wf start.mem = true ∧ (List.replicate 65536 (0x01 : Byte)).length ≤ 65536)
      ∧ 65536 < (List.replicate 65537 (0x01 : Byte)).length
      ∧ ∀ k, k < [(0xAA : Byte), 0xBB].length → (0x2000 : Word) ≠ 0xFFFF + BitVec.ofNat 16 k := by
  refine ⟨⟨by decide, ?_⟩, ?_, by decide⟩
  · rw [List.length_replicate]
  · rw [List.length_replicate]
    decide

/-- The hypotheses of `PortCallsOfTheHost`. -/
theorem test_witness_PortCallsOfTheHost :
    PortBank.wf start.inPorts = true ∧ PortBank.wf start.outPorts = true ∧ (7 : Byte).toNat ≠ 256 % 256 := by decide

/-- The hypotheses of `EqualReadsMeanEqualMemories`. -/
theorem test_witness_EqualReadsMeanEqualMemories :
    Memory.wf (cellWrite [(5, 1)] 5 0) = true ∧ Memory.wf ([] : Memory) = true
      ∧ ∀ k, k < 65536 → cellRead (cellWrite [(5, 1)] 5 0) k = cellRead ([] : Memory) k :=
  ⟨by decide, by decide, fun _ _ => rfl⟩

end Sys2Proof.Tests.Slice0
end

section
/-! PROOFS. What every instruction leaves unchanged, what a step can do, and O53, O48, O49, O50. -/

namespace Sys2Proof.Machine

open Sys2Proof.Safety

/-! ## jumpIf, callIf, returnIf: the fields that are kept, taken or not -/

@[simp] theorem jumpIf_sp (c : Bool) (adr : Word) (s : State) : (jumpIf c adr s).sp = s.sp := by cases c <;> rfl
@[simp] theorem jumpIf_flags (c : Bool) (adr : Word) (s : State) :
    (jumpIf c adr s).flags = s.flags := by cases c <;> rfl
@[simp] theorem jumpIf_inte (c : Bool) (adr : Word) (s : State) : (jumpIf c adr s).inte = s.inte := by cases c <;> rfl
@[simp] theorem jumpIf_halted (c : Bool) (adr : Word) (s : State) :
    (jumpIf c adr s).halted = s.halted := by cases c <;> rfl
@[simp] theorem jumpIf_cyc (c : Bool) (adr : Word) (s : State) : (jumpIf c adr s).cyc = s.cyc := by cases c <;> rfl
@[simp] theorem jumpIf_mem (c : Bool) (adr : Word) (s : State) : (jumpIf c adr s).mem = s.mem := by cases c <;> rfl
@[simp] theorem jumpIf_inPorts (c : Bool) (adr : Word) (s : State) :
    (jumpIf c adr s).inPorts = s.inPorts := by cases c <;> rfl
@[simp] theorem jumpIf_outPorts (c : Bool) (adr : Word) (s : State) :
    (jumpIf c adr s).outPorts = s.outPorts := by cases c <;> rfl
@[simp] theorem jumpIf_params (c : Bool) (adr : Word) (s : State) :
    (jumpIf c adr s).params = s.params := by cases c <;> rfl

@[simp] theorem callIf_flags (c : Bool) (adr : Word) (s : State) :
    (callIf c adr s).flags = s.flags := by cases c <;> rfl
@[simp] theorem callIf_inte (c : Bool) (adr : Word) (s : State) : (callIf c adr s).inte = s.inte := by cases c <;> rfl
@[simp] theorem callIf_halted (c : Bool) (adr : Word) (s : State) :
    (callIf c adr s).halted = s.halted := by cases c <;> rfl
@[simp] theorem callIf_cyc (c : Bool) (adr : Word) (s : State) : (callIf c adr s).cyc = s.cyc := by cases c <;> rfl
@[simp] theorem callIf_inPorts (c : Bool) (adr : Word) (s : State) :
    (callIf c adr s).inPorts = s.inPorts := by cases c <;> rfl
@[simp] theorem callIf_outPorts (c : Bool) (adr : Word) (s : State) :
    (callIf c adr s).outPorts = s.outPorts := by cases c <;> rfl
@[simp] theorem callIf_params (c : Bool) (adr : Word) (s : State) :
    (callIf c adr s).params = s.params := by cases c <;> rfl

@[simp] theorem returnIf_flags (c : Bool) (s : State) : (returnIf c s).flags = s.flags := by cases c <;> rfl
@[simp] theorem returnIf_inte (c : Bool) (s : State) : (returnIf c s).inte = s.inte := by cases c <;> rfl
@[simp] theorem returnIf_halted (c : Bool) (s : State) : (returnIf c s).halted = s.halted := by cases c <;> rfl
@[simp] theorem returnIf_cyc (c : Bool) (s : State) : (returnIf c s).cyc = s.cyc := by cases c <;> rfl
@[simp] theorem returnIf_mem (c : Bool) (s : State) : (returnIf c s).mem = s.mem := by cases c <;> rfl
@[simp] theorem returnIf_inPorts (c : Bool) (s : State) : (returnIf c s).inPorts = s.inPorts := by cases c <;> rfl
@[simp] theorem returnIf_outPorts (c : Bool) (s : State) : (returnIf c s).outPorts = s.outPorts := by cases c <;> rfl
@[simp] theorem returnIf_params (c : Bool) (s : State) : (returnIf c s).params = s.params := by cases c <;> rfl

/-! ## What an instruction leaves unchanged -/

/-- The flags before and after an instruction of a flag class (10_state.md R22). -/
def FlagsWithin (c : FlagClass) (f g : Flags) : Prop :=
  match c with
  | .none => g = f
  | .carryOnly => g = { f with cy := g.cy }
  | .allButCarry => g.cy = f.cy
  | .all => True

/-- What `i` leaves unchanged by the lists of writers (10_state.md R16, R17, R22, R28 to R31; 20_memory.md R61). -/
structure KeepsUnlisted (i : Instr) (s t : State) : Prop where
  flags : FlagsWithin (writesOf i).flags s.flags t.flags
  sp : (writesOf i).sp = false → t.sp = s.sp
  pc : (writesOf i).pc = false → t.pc = s.pc
  mem : (writesOf i).mem = false → t.mem = s.mem
  ports : (∀ n, i ≠ .out n) → t.inPorts = s.inPorts ∧ t.outPorts = s.outPorts
  inte : i ≠ .ei → i ≠ .di → t.inte = s.inte
  halted : i ≠ .hlt → t.halted = s.halted
  cyc : t.cyc = s.cyc
  params : t.params = s.params

/-- A write to the pair or to SP that a code selects reaches SP for code 3 alone (10_state.md R14, R17). -/
@[simp] theorem pairSpSet_sp (p : PairSp) (v : Word) (s : State) :
    (pairSpSet p v s).sp = if p = .sp then v else s.sp := by cases p <;> rfl

@[simp] theorem incFlags_cy (v : Byte) (f : Flags) : (incFlags v f).cy = f.cy := rfl
@[simp] theorem decFlags_cy (v : Byte) (f : Flags) : (decFlags v f).cy = f.cy := rfl

/-- Every instruction completes and writes nothing outside the spec's lists. Each meaning is made of the named updates,
so the lemmas for their fields settle each clause. -/
theorem exec_keepsUnlisted (i : Instr) (s : State) : ∃ t, exec i s = .next t ∧ KeepsUnlisted i s t := by
  cases i
  all_goals
    refine ⟨_, rfl, ?_⟩
    constructor <;> simp +contextual [writesOf, noSideEffect, FlagsWithin]

theorem exec_next (i : Instr) (s : State) : ∃ t, exec i s = .next t :=
  (exec_keepsUnlisted i s).imp fun _ h => h.1

theorem keepsUnlisted_of_exec {i : Instr} {s t : State} (h : exec i s = .next t) : KeepsUnlisted i s t := by
  obtain ⟨u, hu, hk⟩ := exec_keepsUnlisted i s
  cases h.symm.trans hu
  exact hk

/-! ## What a step can do -/

theorem step_of_exec {s u t : State} {i : Instr} (hs : isStopped s = false) (hf : fetchInstr s = .ok (i, u))
    (ht : exec i u = .next t) : step s = .next (countCycles i s.flags t) := by
  simp [step, hs, hf, ht, mapNext]

/-- A step either finds the block stopped and changes nothing, or fetches, executes and counts an instruction
(30_encoding.md R75). -/
theorem step_cases (s : State) :
    (isStopped s = true ∧ step s = .next s)
      ∨ (isStopped s = false ∧ ∃ i u t, fetchInstr s = .ok (i, u) ∧ exec i u = .next t
          ∧ step s = .next (countCycles i s.flags t)) := by
  cases hs : isStopped s with
  | true => exact .inl ⟨rfl, by simp [step, hs]⟩
  | false =>
    obtain ⟨i, u, hf⟩ := fetchInstr_ok s
    obtain ⟨t, ht⟩ := exec_next i u
    exact .inr ⟨rfl, i, u, t, hf, ht, step_of_exec hs hf ht⟩

/-! ## The cycle counter -/

/-- The state with another count in the cycle counter. -/
def cycSet (n : Nat) (s : State) : State := { s with cyc := n }

theorem sameButCyc_iff {s t : State} : SameButCyc s t ↔ ∃ n, t = cycSet n s :=
  ⟨fun h => ⟨t.cyc, h⟩, by rintro ⟨n, rfl⟩; rfl⟩

theorem pairSpSet_cycSet (p : PairSp) (v : Word) (n : Nat) (s : State) :
    pairSpSet p v (cycSet n s) = cycSet n (pairSpSet p v s) := by cases p <;> rfl

theorem jumpIf_cycSet (c : Bool) (adr : Word) (n : Nat) (s : State) :
    jumpIf c adr (cycSet n s) = cycSet n (jumpIf c adr s) := by cases c <;> rfl

theorem callIf_cycSet (c : Bool) (adr : Word) (n : Nat) (s : State) :
    callIf c adr (cycSet n s) = cycSet n (callIf c adr s) := by cases c <;> rfl

theorem returnIf_cycSet (c : Bool) (n : Nat) (s : State) :
    returnIf c (cycSet n s) = cycSet n (returnIf c s) := by cases c <;> rfl

/-- No instruction reads the cycle counter or writes it: executing and replacing the count commute. -/
theorem exec_cycSet (i : Instr) (n : Nat) (s : State) : exec i (cycSet n s) = mapNext (cycSet n) (exec i s) := by
  cases i with
  | lxi p | inx p | dcx p => exact congrArg Host.Outcome.next (pairSpSet_cycSet p _ n s)
  | jnz | jz | jnc | jc | jpo | jpe | jp | jm => exact congrArg Host.Outcome.next (jumpIf_cycSet _ _ n s)
  | cnz | cz | cnc | cc | cpo | cpe | cp | cm => exact congrArg Host.Outcome.next (callIf_cycSet _ _ n s)
  | rnz | rz | rnc | rc | rpo | rpe | rp | rm => exact congrArg Host.Outcome.next (returnIf_cycSet _ n s)
  | _ => rfl

/-- The fetch does not read the counter either. -/
theorem fetchInstr_cycSet {s u : State} {i : Instr} (h : fetchInstr s = .ok (i, u)) (n : Nat) :
    fetchInstr (cycSet n s) = .ok (i, cycSet n u) := by
  obtain ⟨e, he⟩ := dispatch_mapped (memRead s.pc s)
  have he' : dispatch (memRead (cycSet n s).pc (cycSet n s)) = some e := he
  simp only [fetchInstr, fetch8, he, he'] at h ⊢
  cases e <;> cases h <;> rfl

theorem sameButCyc_countCycles (i : Instr) (f g : Flags) (n : Nat) (t : State) :
    SameButCyc (countCycles i f t) (countCycles i g (cycSet n t)) := rfl

/-- Settles O53: fetch and execution commute with replacing the count, and counting writes the counter alone. -/
theorem cycleCounterInfluencesNothing : Obligations.CycleCounterInfluencesNothing := by
  intro s t hst
  obtain ⟨n, rfl⟩ := sameButCyc_iff.mp hst
  obtain ⟨hs, hstep⟩ | ⟨hs, i, u, t, hf, ht, hstep⟩ := step_cases s
  · exact ⟨s, cycSet n s, hstep, if_pos hs, hst⟩
  · have ht' : exec i (cycSet n u) = .next (cycSet n t) := by rw [exec_cycSet, ht]; rfl
    exact ⟨_, _, hstep, step_of_exec (s := cycSet n s) hs (fetchInstr_cycSet hf n) ht', sameButCyc_countCycles ..⟩

/-! ## What an instruction may write -/

/-- Settles O48: the flag clause of `exec_keepsUnlisted`, class by class. -/
theorem onlyListedInstructionsWriteFlags : Obligations.OnlyListedInstructionsWriteFlags := by
  intro i s
  obtain ⟨t, ht, hk⟩ := exec_keepsUnlisted i s
  refine ⟨t, ht, ?_⟩
  have hflags := hk.flags
  cases hc : (writesOf i).flags <;> rw [hc] at hflags <;> exact hflags

/-- Settles O49: the SP and PC clauses of `exec_keepsUnlisted`. -/
theorem onlyListedInstructionsWriteSpAndPc : Obligations.OnlyListedInstructionsWriteSpAndPc := by
  intro i s
  obtain ⟨t, ht, hk⟩ := exec_keepsUnlisted i s
  exact ⟨t, ht, hk.sp, hk.pc⟩

/-- Settles O50: the other clauses of `exec_keepsUnlisted`. -/
theorem onlyListedInstructionsWriteMemoryPortsAndControl :
    Obligations.OnlyListedInstructionsWriteMemoryPortsAndControl := by
  intro i s
  obtain ⟨t, ht, hk⟩ := exec_keepsUnlisted i s
  exact ⟨t, ht, hk.mem, hk.ports, hk.inte, hk.halted, hk.cyc, hk.params⟩

end Sys2Proof.Machine
end

section
/-! PROOFS. The opcode byte of the instruction a fetch answers, and O51. -/

namespace Sys2Proof

open Sys2Proof.Machine

/-- The instruction an entry of the dispatch table gives with the two bytes that follow the opcode byte. -/
def Handler.instr (e : Handler) (x y : Byte) : Instr :=
  match e with
  | .f1 i => i
  | .f2 k => k x
  | .f3 k => k (wordOf y x)

/-- A fetch answers the instruction of the opcode's dispatch entry (30_encoding.md R75). -/
theorem fetchInstr_instr {s u : State} {i : Instr} (h : fetchInstr s = .ok (i, u)) :
    ∃ e, dispatch (memRead s.pc s) = some e ∧ i = e.instr (memRead (s.pc + 1) s) (memRead (s.pc + 1 + 1) s) := by
  obtain ⟨e, he⟩ := dispatch_mapped (memRead s.pc s)
  refine ⟨e, he, ?_⟩
  simp only [fetchInstr, fetch8, he] at h
  cases e <;> cases h <;> rfl

/-- The opcode byte is its three fields (30_encoding.md R71). -/
theorem opOctal_fields : ∀ op : Byte, opOctal (opGrp op) (opMid op) (opLow op) = op := by
  decide

/-- The entry of an opcode gives instructions encoded with that opcode: one case per value of the three fields. -/
theorem encode_instr_head {op : Byte} {e : Handler} (he : dispatch op = some e) (x y : Byte) :
    (encode (e.instr x y)).head? = some op := by
  obtain ⟨g, a, b, rfl⟩ : ∃ g a b, opOctal g a b = op := ⟨_, _, _, opOctal_fields op⟩
  rcases bits2_cases g with rfl | rfl | rfl | rfl <;>
    rcases bits3_cases a with rfl | rfl | rfl | rfl | rfl | rfl | rfl | rfl <;>
    rcases bits3_cases b with rfl | rfl | rfl | rfl | rfl | rfl | rfl | rfl <;>
    cases he <;> rfl

/-- The byte at PC is the opcode of the instruction fetched. -/
theorem memRead_pc_of_fetchInstr {s u : State} {i : Instr} (h : fetchInstr s = .ok (i, u)) :
    (encode i).head? = some (memRead s.pc s) := by
  obtain ⟨e, he, rfl⟩ := fetchInstr_instr h
  exact encode_instr_head he _ _

end Sys2Proof

namespace Sys2Proof.Machine

/-- An instruction that changes INTE is EI, and sets it, or DI, and clears it (10_state.md R28). -/
theorem inte_changed_of_exec {i : Instr} {s t : State} (h : exec i s = .next t) (hne : t.inte ≠ s.inte) :
    (i = .di ∧ t.inte = false) ∨ (i = .ei ∧ t.inte = true) := by
  by_cases hdi : i = .di
  · subst hdi; cases h; exact .inl ⟨rfl, rfl⟩
  by_cases hei : i = .ei
  · subst hei; cases h; exact .inr ⟨rfl, rfl⟩
  exact absurd ((keepsUnlisted_of_exec h).inte hei hdi) hne

/-- A step that changes INTE fetched the opcode of DI, and cleared it, or of EI, and set it. -/
theorem inte_changed_of_step {s t : State} (h : step s = .next t) (hne : t.inte ≠ s.inte) :
    (memRead s.pc s = 0xF3 ∧ t.inte = false) ∨ (memRead s.pc s = 0xFB ∧ t.inte = true) := by
  obtain ⟨-, hstep⟩ | ⟨-, i, u, v, hf, hv, hstep⟩ := step_cases s
  · cases h.symm.trans hstep
    exact absurd rfl hne
  · cases h.symm.trans hstep
    have hu : u.inte = s.inte := by rw [fetchInstr_state hf, pcSet_inte]
    have hop := memRead_pc_of_fetchInstr hf
    obtain ⟨rfl, hv'⟩ | ⟨rfl, hv'⟩ := inte_changed_of_exec hv (hu ▸ hne)
    · exact .inl ⟨(Option.some.inj hop).symm, hv'⟩
    · exact .inr ⟨(Option.some.inj hop).symm, hv'⟩

/-- A load, refused or not, keeps INTE. -/
theorem hostLoad_getD_inte (bytes : List Byte) (origin : Word) (s : State) :
    ((hostLoad bytes origin s).getD s).inte = s.inte := by
  unfold hostLoad
  split <;> rfl

/-- Settles O51: a step changes INTE by EI or DI alone, whose opcode stands at PC; the other calls by their updates. -/
theorem inteChangesOnlyByEiDiOrReset : Obligations.InteChangesOnlyByEiDiOrReset := by
  refine ⟨fun s t => inte_changed_of_step, fun s => rfl, fun x s hreset hstep => ?_⟩
  cases x with
  | reset => exact absurd rfl hreset
  | step => exact absurd rfl hstep
  | load bytes origin => exact hostLoad_getD_inte bytes origin s
  | writePort n v => exact portWrite_inte _ _ s
  | setInput n v => rfl

end Sys2Proof.Machine
end

section
/-! PROOFS. The PSW byte, parity, the register pairs, the operands and the reset state: O43, O44, O18, O21, O58. -/

namespace Sys2Proof.Machine

open Sys2Proof.Safety

/-! ## The PSW byte -/

/-- The layout of the PSW byte (10_state.md R26). -/
theorem packPsw_getLsbD (f : Flags) :
    (packPsw f).getLsbD 7 = f.s ∧ (packPsw f).getLsbD 6 = f.z ∧ (packPsw f).getLsbD 5 = false
      ∧ (packPsw f).getLsbD 4 = f.ac ∧ (packPsw f).getLsbD 3 = false ∧ (packPsw f).getLsbD 2 = f.p
      ∧ (packPsw f).getLsbD 1 = true ∧ (packPsw f).getLsbD 0 = f.cy := by
  obtain ⟨s, z, ac, p, cy⟩ := f
  revert s z ac p cy
  decide

theorem packPsw_toNat (f : Flags) :
    (packPsw f).toNat = f.s.toNat * 128 + f.z.toNat * 64 + f.ac.toNat * 16 + f.p.toNat * 4 + 2 + f.cy.toNat := by
  rw [packPsw, BitVec.toNat_ofNat, Nat.mod_eq_of_lt]
  have := f.s.toNat_le; have := f.z.toNat_le; have := f.ac.toNat_le; have := f.p.toNat_le; have := f.cy.toNat_le
  omega

theorem unpackPsw_packPsw (f : Flags) : unpackPsw (packPsw f) = f := by
  obtain ⟨h7, h6, -, h4, -, h2, -, h0⟩ := packPsw_getLsbD f
  simp only [unpackPsw, h7, h6, h4, h2, h0]

theorem packPsw_unpackPsw (v : Byte) : packPsw (unpackPsw v) = (v &&& 0xD5) ||| 0x02 := by
  obtain ⟨h7, h6, h5, h4, h3, h2, h1, h0⟩ := packPsw_getLsbD (unpackPsw v)
  apply BitVec.eq_of_getLsbD_eq
  intro k hk
  rw [BitVec.getLsbD_or, BitVec.getLsbD_and]
  interval_cases k <;> simp only [h7, h6, h5, h4, h3, h2, h1, h0] <;> simp [unpackPsw]

/-- Settles O43: the layout of the PSW byte gives every clause. -/
theorem pswPackAndUnpack : Obligations.PswPackAndUnpack := by
  refine ⟨fun f => ?_, packPsw_unpackPsw, rfl, rfl⟩
  obtain ⟨-, -, h5, -, h3, -, h1, -⟩ := packPsw_getLsbD f
  exact ⟨packPsw_toNat f, h5, h3, h1, unpackPsw_packPsw f⟩

/-! ## Parity -/

theorem ones_eq_bitCount (v : Byte) : ones v = bitCount v := by
  simp only [ones, bitCount, List.range, List.range.loop, List.countP_cons, List.countP_nil, Bool.toNat,
    Bool.cond_eq_ite]
  omega

/-- The exclusive-or of two bits is the sum of them mod 2. -/
theorem toNat_xor (a b : Bool) : (a ^^ b).toNat = (a.toNat + b.toNat) % 2 := by
  cases a <;> cases b <;> rfl

theorem bitCount_mod_two (v : Byte) :
    bitCount v % 2 = (v.getLsbD 0 ^^ v.getLsbD 1 ^^ v.getLsbD 2 ^^ v.getLsbD 3
      ^^ v.getLsbD 4 ^^ v.getLsbD 5 ^^ v.getLsbD 6 ^^ v.getLsbD 7).toNat := by
  simp only [toNat_xor, bitCount]
  omega

/-- Settles O44: both counts are one sum of bits, whose parity is their exclusive-or. -/
theorem parityCountsOneBits : Obligations.ParityCountsOneBits := by
  refine ⟨fun v => ?_, fun v => ?_⟩
  · rw [parity, decide_eq_true_iff, ones_eq_bitCount]
  · rw [parity, bitCount_mod_two]
    simp only [Bool.toNat_eq_zero, Bool.decide_eq_false]

/-! ## Pairs -/

theorem codeOfPairSp_pairSpOfCode : ∀ x : BitVec 2, codeOfPairSp (pairSpOfCode x) = x := by
  decide

theorem pairRegs_pair (p : Pair) : pairRegs (.pair p) = [pairHi p, pairLo p] := by
  cases p <;> rfl

/-- Writing a pair puts the high byte in its first register and the low byte in its second (10_state.md R13). -/
theorem pairSet_wordOf (p : Pair) (hi lo : Byte) (s : State) :
    pairSet p (wordOf hi lo) s = { s with regs := regsWith (pairLo p) lo (regsWith (pairHi p) hi s.regs) } := by
  rw [pairSet, hiByte_wordOf, loByte_wordOf]

/-- No register belongs to two pairs, so writing a pair leaves the others alone. -/
theorem pairGet_pairSet_ne {p q : Pair} (h : q ≠ p) (v : Word) (s : State) :
    pairGet q (pairSet p v s) = pairGet q s := by
  cases p <;> cases q <;> simp [pairGet, regGet_pairSet, pairHi, pairLo] at h ⊢

theorem pairSpGet_pairSpSet (p q : PairSp) (v : Word) (s : State) :
    pairSpGet q (pairSpSet p v s) = if q = p then v else pairSpGet q s := by
  split
  case isTrue h =>
    subst h
    cases q with
    | pair q => exact pairGet_pairSet_same q v s
    | sp => rfl
  case isFalse h =>
    cases p <;> cases q
    case pair.pair p q => exact pairGet_pairSet_ne (fun e => h (congrArg _ e)) v s
    case pair.sp => rfl
    case sp.pair => rfl
    case sp.sp => exact absurd rfl h

/-- Writing a register outside a pair leaves the pair alone. -/
theorem pairSpGet_regSet_of_not_mem {p : PairSp} {r : Reg8} (h : r ∉ pairRegs p) (v : Byte) (s : State) :
    pairSpGet p (regSet r v s) = pairSpGet p s := by
  cases p with
  | sp => rfl
  | pair p =>
    obtain ⟨hhi, hlo⟩ : pairHi p ≠ r ∧ pairLo p ≠ r := by simpa [pairRegs_pair, eq_comm] using h
    simp [pairSpGet, pairGet, regGet_regSet, hhi, hlo]

/-- Settles O18: reads, writes and disjointness of the pairs, each by its own lemma. -/
theorem pairsAreProjectionsOfTheRegisters : Obligations.PairsAreProjectionsOfTheRegisters := by
  refine ⟨⟨rfl, rfl, rfl, rfl⟩, codeOfPairSp_pairSpOfCode, fun s => ?reads, fun hi lo s => ?writes,
    pairSpGet_pairSpSet, fun p r v s h => pairSpGet_regSet_of_not_mem h v s, fun v s => ?halves⟩
  case reads => exact ⟨wordOf_toNat _ _, wordOf_toNat _ _, wordOf_toNat _ _, rfl⟩
  case writes =>
    exact ⟨pairSet_wordOf .bc hi lo s, pairSet_wordOf .de hi lo s, pairSet_wordOf .hl hi lo s, rfl⟩
  case halves => exact ⟨rfl, rfl, rfl, rfl, rfl, rfl⟩

/-! ## Operands and reset -/

/-- Settles O21: each selection is an entry of the operand table. -/
theorem operandSelection : Obligations.OperandSelection := by
  intro s
  have codes : operandOfCode 0 = .reg .b ∧ operandOfCode 1 = .reg .c ∧ operandOfCode 2 = .reg .d
      ∧ operandOfCode 3 = .reg .e ∧ operandOfCode 4 = .reg .h ∧ operandOfCode 5 = .reg .l
      ∧ operandOfCode 6 = .mem ∧ operandOfCode 7 = .reg .a := by decide
  exact ⟨rfl, rfl, rfl, rfl, rfl, rfl, rfl, rfl, codes⟩

/-- With every flag clear the PSW byte holds its fixed bit 1 alone. -/
theorem packPsw_zero : packPsw Flags.zero = 0x02 := rfl

/-- What the host reads as the PSW byte of a block just created. -/
theorem hostRead_psw_created (p : Config.Params) (m : Memory) (x y : PortBank) :
    hostRead .psw (State.created p m x y) = some 0x02 :=
  congrArg (fun v : Byte => some v.toNat) packPsw_zero

/-- Settles O58: reset() is the creation state with memory, ports and parameters kept. -/
theorem resetClearsRegistersAndKeepsMemory : Obligations.ResetClearsRegistersAndKeepsMemory :=
  ⟨fun _ => rfl, fun _ _ _ _ => rfl, hostRead_psw_created _ _ _ _, fun _ => hostRead_psw_created _ _ _ _⟩

end Sys2Proof.Machine
end

section
/-! PROOFS. Memory: the protected bytes along a run, the canonical form as a normal form, and the fetch of a byte just
stored: O56, O60, O33. -/

namespace Sys2Proof.Machine

open Sys2Proof.Safety

/-! ## The write-protected bytes -/

/-- From `s` to `t` no write-protected byte and no parameter changes (20_memory.md R44, R45). -/
structure KeepsProtected (s t : State) : Prop where
  params : t.params = s.params
  mem : ∀ adr, isProtected s.params adr = true → memRead adr t = memRead adr s

theorem KeepsProtected.of_mem_eq {s t : State} (hp : t.params = s.params) (hm : t.mem = s.mem) : KeepsProtected s t :=
  ⟨hp, fun adr _ => memRead_congr hm adr⟩

theorem KeepsProtected.refl (s : State) : KeepsProtected s s := .of_mem_eq rfl rfl

theorem KeepsProtected.trans {s t u : State} (h : KeepsProtected s t) (h' : KeepsProtected t u) :
    KeepsProtected s u where
  params := h'.params.trans h.params
  mem adr hadr := (h'.mem adr (h.params ▸ hadr)).trans (h.mem adr hadr)

/-- A call, taken or not, never changes a write-protected byte. -/
theorem memRead_callIf_protected {j : Word} {s : State} (h : isProtected s.params j = true) (taken : Bool) (adr : Word) :
    memRead j (callIf taken adr s) = memRead j s := by
  obtain ⟨-, hc⟩ | ⟨-, hc⟩ := callIf_cases taken adr s <;> rw [hc]
  exact memRead_push16_protected h s.pc

/-- No instruction changes a write-protected byte: it stores nothing, or by a store, a two-byte store or a push. -/
theorem memRead_exec_protected {i : Instr} {s t : State} {j : Word} (h : isProtected s.params j = true)
    (ht : exec i s = .next t) : memRead j t = memRead j s := by
  by_cases hw : (writesOf i).mem = false
  · exact memRead_congr ((keepsUnlisted_of_exec ht).mem hw) j
  cases i with
  | movMR | mviM | sta | stax | inrM | dcrM => cases ht; exact memRead_memWrite_protected h _
  | shld | xthl => cases ht; exact memRead_memWrite16_protected h _
  | push | pushPsw | call | rst | undocCall => cases ht; exact memRead_push16_protected h _
  | cnz | cz | cnc | cc | cpo | cpe | cp | cm => cases ht; exact memRead_callIf_protected h _ _
  | _ => exact absurd rfl hw

theorem keepsProtected_of_exec {i : Instr} {s t : State} (ht : exec i s = .next t) : KeepsProtected s t :=
  ⟨(keepsUnlisted_of_exec ht).params, fun _ h => memRead_exec_protected h ht⟩

theorem keepsProtected_of_step {s t : State} (ht : step s = .next t) : KeepsProtected s t := by
  obtain ⟨-, hstep⟩ | ⟨-, i, u, v, hf, hv, hstep⟩ := step_cases s <;> cases ht.symm.trans hstep
  · exact .refl s
  · have hfetch : KeepsProtected s u := by
      rw [fetchInstr_state hf]
      exact .of_mem_eq rfl rfl
    have hcount : KeepsProtected v (countCycles i s.flags v) := .of_mem_eq rfl rfl
    exact hfetch.trans ((keepsProtected_of_exec hv).trans hcount)

theorem keepsProtected_hostStep (s : State) : KeepsProtected s (hostStep s) := by
  unfold hostStep
  split
  next t ht => exact keepsProtected_of_step ht
  · exact .refl s
  · exact .refl s

/-- Of the host's calls only `load` may change a write-protected byte (20_memory.md R46). -/
theorem keepsProtected_hostCall {x : HostCall} (hx : ∀ bytes origin, x ≠ .load bytes origin) (s : State) :
    KeepsProtected s (hostCall x s) := by
  cases x with
  | reset => exact .of_mem_eq rfl rfl
  | load bytes origin => exact absurd rfl (hx bytes origin)
  | step => exact keepsProtected_hostStep s
  | writePort n v => exact .of_mem_eq rfl rfl
  | setInput n v => exact .of_mem_eq rfl rfl

theorem keepsProtected_hostRun {calls : List HostCall} (hcalls : ∀ x ∈ calls, ∀ bytes origin, x ≠ .load bytes origin)
    (s : State) : KeepsProtected s (hostRun calls s) := by
  induction calls generalizing s with
  | nil => exact .refl s
  | cons x rest ih =>
    rw [List.forall_mem_cons] at hcalls
    exact (keepsProtected_hostCall hcalls.1 s).trans (ih hcalls.2 _)

/-- Settles O56: every call but `load` keeps the protected bytes, and so does a run of such calls. -/
theorem protectedBytesChangeOnlyByLoad : Obligations.ProtectedBytesChangeOnlyByLoad :=
  fun _ s adr hlo hhi hcalls => (keepsProtected_hostRun hcalls s).mem adr ((isProtected_iff _ _).mpr ⟨hlo, hhi⟩)

/-! ## The canonical form is a normal form -/

/-- The first key of a canonical list is listed, so a list with only keys from `lo'` on that reads alike there has
`lo'` no higher. -/
theorem le_of_cellRead_eq {bound lo lo' k : Nat} {v : Byte} {m m' : List Host.Cell}
    (h : cellsWf bound lo ((k, v) :: m) = true) (h' : cellsWf bound lo' m' = true)
    (heq : cellRead ((k, v) :: m) k = cellRead m' k) : lo' ≤ k := by
  obtain ⟨-, -, hv, -⟩ := (cellsWf_cons ..).mp h
  by_contra hlt
  rw [cellRead_of_lt h' (by omega), cellRead, if_pos rfl] at heq
  exact hv heq

/-- A canonical list is canonical from its own first key on. -/
theorem cellsWf_from_head {bound lo k : Nat} {v : Byte} {m : List Host.Cell}
    (h : cellsWf bound lo ((k, v) :: m) = true) : cellsWf bound k ((k, v) :: m) = true := by
  rw [cellsWf_cons] at h ⊢
  exact ⟨le_rfl, h.2⟩

/-- Canonical lists that read alike at every key below their bound are equal. -/
theorem eq_of_cellRead_eq {bound lo : Nat} {m m' : List Host.Cell} (h : cellsWf bound lo m = true)
    (h' : cellsWf bound lo m' = true) (heq : ∀ k, k < bound → cellRead m k = cellRead m' k) : m = m' := by
  induction m generalizing lo m' with
  | nil =>
    cases m' with
    | nil => rfl
    | cons c' m' =>
      obtain ⟨-, hk', -⟩ := (cellsWf_cons ..).mp h'
      exact absurd (le_of_cellRead_eq h' (cellsWf_nil bound (c'.1 + 1)) (heq _ hk').symm) (by omega)
  | cons c m ih =>
    obtain ⟨k, v⟩ := c
    obtain ⟨-, hk, -, hm⟩ := (cellsWf_cons ..).mp h
    cases m' with
    | nil => exact absurd (le_of_cellRead_eq h (cellsWf_nil bound (k + 1)) (heq _ hk)) (by omega)
    | cons c' m' =>
      obtain ⟨k', v'⟩ := c'
      obtain ⟨-, hk', -, hm'⟩ := (cellsWf_cons ..).mp h'
      obtain rfl : k = k' := le_antisymm (le_of_cellRead_eq h' (cellsWf_from_head h) (heq _ hk').symm)
        (le_of_cellRead_eq h (cellsWf_from_head h') (heq _ hk))
      obtain rfl : v = v' := by simpa [cellRead] using heq k hk
      have htails : ∀ j, j < bound → cellRead m j = cellRead m' j := fun j hj => by
        by_cases hjk : j < k + 1
        · rw [cellRead_of_lt hm hjk, cellRead_of_lt hm' hjk]
        · simpa [cellRead, show k ≠ j by omega] using heq j hj
      rw [ih hm hm' htails]

/-- Settles O60: `eq_of_cellRead_eq` at a memory's bound. -/
theorem equalReadsMeanEqualMemories : Obligations.EqualReadsMeanEqualMemories :=
  fun _ _ => eq_of_cellRead_eq

/-! ## A stored byte is the byte fetched next -/

theorem isStopped_eq_false_iff (s : State) : isStopped s = false ↔ ¬ (s.params.hltMode = .halt ∧ s.halted = true) := by
  simp [isStopped]

/-- A step that is not stopped runs the instruction that the bytes at PC decode to (30_encoding.md R75, R76). -/
theorem step_of_decode {s : State} {i : Instr} {rest : List Byte} (hs : isStopped s = false)
    (hd : decode (bytesFrom s.pc s) = .ok (i, rest)) :
    step s = mapNext (countCycles i s.flags) (exec i (pcSet (s.pc + BitVec.ofNat 16 (3 - rest.length)) s)) := by
  have hassoc : s.pc + 2 = s.pc + 1 + 1 := (BitVec.add_assoc s.pc 1 1).symm
  rw [bytesFrom, hassoc] at hd
  simp [step, hs, (fetchInstr_of_decode hd).2]

theorem bytesFrom_congr {s t : State} (h : t.mem = s.mem) (adr : Word) : bytesFrom adr t = bytesFrom adr s := by
  simp only [bytesFrom, memRead_congr h]

/-- A store at the k-th of three addresses, outside the protected range, replaces the k-th of their bytes. -/
theorem bytesFrom_memWrite {s : State} (hwf : Memory.wf s.mem = true) (adr : Word) (v : Byte) {k : Nat} (hk : k < 3)
    (hp : isProtected s.params (adr + BitVec.ofNat 16 k) = false) :
    bytesFrom adr (memWrite (adr + BitVec.ofNat 16 k) v s) = (bytesFrom adr s).set k v := by
  have hsame : memRead (adr + BitVec.ofNat 16 k) (memWrite (adr + BitVec.ofNat 16 k) v s) = v := by
    rw [memRead_memWrite_same hwf, hp]; rfl
  interval_cases k
  · rw [show adr + BitVec.ofNat 16 0 = adr from BitVec.add_zero adr] at hsame ⊢
    simp [bytesFrom, hsame, memRead_memWrite_ne]
  · simp [bytesFrom, hsame, memRead_memWrite_ne]
  · simp [bytesFrom, hsame, memRead_memWrite_ne]

/-- The byte is fetched next when the instruction leaves in memory what the store leaves, and writes neither PC nor the
halt latch. -/
theorem fetchedNext_of_store {x : Instr} {adr : Word} {v : Byte} {s t : State} (hx : exec x s = .next t)
    (hpc : (writesOf x).pc = false) (hhlt : x ≠ .hlt) (hm : t.mem = (memWrite adr v s).mem) :
    FetchedNext x adr v s := by
  rintro hwf hs hp k hk rfl
  have hkeeps := keepsUnlisted_of_exec hx
  have htpc := hkeeps.pc hpc
  have hts : isStopped t = false := by
    rwa [isStopped_eq_false_iff, hkeeps.params, hkeeps.halted hhlt]
  rw [← isProtected_iff, Bool.not_eq_true] at hp
  have hbytes : bytesFrom t.pc t = (bytesFrom s.pc s).set k v := by
    rw [htpc, bytesFrom_congr hm, bytesFrom_memWrite hwf s.pc v hk hp]
  refine ⟨t, hx, htpc, fun i rest hd => ?_⟩
  rw [step_of_decode hts (hbytes ▸ hd), htpc]
  rfl

/-- STA of 0x76, the opcode of HLT, over the next opcode makes the next step halt. -/
theorem sta_hlt_then_step_halts {s : State} (hwf : Memory.wf s.mem = true) (hmode : s.params.hltMode = .halt)
    (hrun : s.halted = false) (hp : ¬ (s.params.romLo ≤ s.pc ∧ s.pc ≤ s.params.romHi)) (ha : s.regs.a = 0x76) :
    ∃ t u, exec (.sta s.pc) s = .next t ∧ step t = .next u ∧ u.halted = true ∧ u.pc = s.pc + 1 := by
  have hnext : FetchedNext (.sta s.pc) s.pc s.regs.a s := fetchedNext_of_store rfl rfl nofun rfl
  obtain ⟨t, ht, -, hstep⟩ := hnext hwf (by simp [hrun]) hp 0 (by decide) (BitVec.add_zero _).symm
  have hd : decode ((bytesFrom s.pc s).set 0 s.regs.a) = .ok (.hlt, [memRead (s.pc + 1) s, memRead (s.pc + 2) s]) := by
    rw [ha]
    exact decode_f1 rfl _
  have hparams : t.params = s.params := (keepsUnlisted_of_exec ht).params
  refine ⟨t, _, ht, hstep _ _ hd, ?_, rfl⟩
  simp [hparams, hmode]

/-- Settles O33: each form leaves in memory what one store leaves, by its meaning. -/
theorem selfModifiedByteIsFetchedNext : Obligations.SelfModifiedByteIsFetchedNext := by
  refine ⟨fun _ _ => ?_, fun _ _ => ?_, fun _ _ => ?_, fun _ => ⟨?_, ?_⟩, fun _ => ⟨?_, ?_⟩,
    fun _ => sta_hlt_then_step_halts⟩
  all_goals exact fetchedNext_of_store rfl rfl nofun rfl

end Sys2Proof.Machine
end

section
/-! PROOFS. Decode against encode both ways, the lengths, and what a step runs: O4, O5, O6, O2, O1. -/

namespace Sys2Proof

open Sys2Proof.Machine Sys2Proof.Laws

/-! ## Decoding undoes encoding -/

/-- Every constructor has its law in `Laws.DecodeEncode`. -/
theorem decodeEncode : ∀ i : Instr, DecodeEncode.Statement i
  | .movRR dst src => DecodeEncode.movRR dst src
  | .movRM dst => DecodeEncode.movRM dst
  | .movMR src => DecodeEncode.movMR src
  | .mviR dst v => DecodeEncode.mviR dst v
  | .mviM v => DecodeEncode.mviM v
  | .lxi p v => DecodeEncode.lxi p v
  | .lda adr => DecodeEncode.lda adr
  | .sta adr => DecodeEncode.sta adr
  | .lhld adr => DecodeEncode.lhld adr
  | .shld adr => DecodeEncode.shld adr
  | .ldax p => DecodeEncode.ldax p
  | .stax p => DecodeEncode.stax p
  | .xchg => DecodeEncode.xchg
  | .inrR dst => DecodeEncode.inrR dst
  | .inrM => DecodeEncode.inrM
  | .dcrR dst => DecodeEncode.dcrR dst
  | .dcrM => DecodeEncode.dcrM
  | .inx p => DecodeEncode.inx p
  | .dcx p => DecodeEncode.dcx p
  | .dad p => DecodeEncode.dad p
  | .add o => DecodeEncode.add o
  | .adc o => DecodeEncode.adc o
  | .sub o => DecodeEncode.sub o
  | .sbb o => DecodeEncode.sbb o
  | .adi v => DecodeEncode.adi v
  | .aci v => DecodeEncode.aci v
  | .sui v => DecodeEncode.sui v
  | .sbi v => DecodeEncode.sbi v
  | .ana o => DecodeEncode.ana o
  | .xra o => DecodeEncode.xra o
  | .ora o => DecodeEncode.ora o
  | .cmp o => DecodeEncode.cmp o
  | .ani v => DecodeEncode.ani v
  | .xri v => DecodeEncode.xri v
  | .ori v => DecodeEncode.ori v
  | .cpi v => DecodeEncode.cpi v
  | .cma => DecodeEncode.cma
  | .stc => DecodeEncode.stc
  | .cmc => DecodeEncode.cmc
  | .rlc => DecodeEncode.rlc
  | .rrc => DecodeEncode.rrc
  | .ral => DecodeEncode.ral
  | .rar => DecodeEncode.rar
  | .daa => DecodeEncode.daa
  | .jmp adr => DecodeEncode.jmp adr
  | .jnz adr => DecodeEncode.jnz adr
  | .jz adr => DecodeEncode.jz adr
  | .jnc adr => DecodeEncode.jnc adr
  | .jc adr => DecodeEncode.jc adr
  | .jpo adr => DecodeEncode.jpo adr
  | .jpe adr => DecodeEncode.jpe adr
  | .jp adr => DecodeEncode.jp adr
  | .jm adr => DecodeEncode.jm adr
  | .pchl => DecodeEncode.pchl
  | .call adr => DecodeEncode.call adr
  | .cnz adr => DecodeEncode.cnz adr
  | .cz adr => DecodeEncode.cz adr
  | .cnc adr => DecodeEncode.cnc adr
  | .cc adr => DecodeEncode.cc adr
  | .cpo adr => DecodeEncode.cpo adr
  | .cpe adr => DecodeEncode.cpe adr
  | .cp adr => DecodeEncode.cp adr
  | .cm adr => DecodeEncode.cm adr
  | .ret => DecodeEncode.ret
  | .rnz => DecodeEncode.rnz
  | .rz => DecodeEncode.rz
  | .rnc => DecodeEncode.rnc
  | .rc => DecodeEncode.rc
  | .rpo => DecodeEncode.rpo
  | .rpe => DecodeEncode.rpe
  | .rp => DecodeEncode.rp
  | .rm => DecodeEncode.rm
  | .rst n => DecodeEncode.rst n
  | .push p => DecodeEncode.push p
  | .pushPsw => DecodeEncode.pushPsw
  | .pop p => DecodeEncode.pop p
  | .popPsw => DecodeEncode.popPsw
  | .xthl => DecodeEncode.xthl
  | .sphl => DecodeEncode.sphl
  | .inp n => DecodeEncode.inp n
  | .out n => DecodeEncode.out n
  | .nop => DecodeEncode.nop
  | .hlt => DecodeEncode.hlt
  | .di => DecodeEncode.di
  | .ei => DecodeEncode.ei
  | .undocNop n => DecodeEncode.undocNop n
  | .undocJmp adr => DecodeEncode.undocJmp adr
  | .undocRet => DecodeEncode.undocRet
  | .undocCall x adr => DecodeEncode.undocCall x adr

/-- Settles O4: by the law of the instruction's constructor. -/
theorem decodeInvertsEncode : Obligations.DecodeInvertsEncode :=
  fun i rest hwf => decodeEncode i hwf rest

/-! ## Encoding undoes decoding -/

/-- The bytes of an instruction of this entry (30_encoding.md R70): the opcode, and as many of the two bytes after it as
its format takes. -/
def Handler.bytes (e : Handler) (op x y : Byte) : List Byte :=
  match e with
  | .f1 _ => [op]
  | .f2 _ => bytesF2 op x
  | .f3 _ => bytesF3 op (wordOf y x)

theorem bytesF3_wordOf (op lo hi : Byte) : bytesF3 op (wordOf hi lo) = [op, lo, hi] := by
  simp [bytesF3]

/-- What decodes is an instruction of the opcode's entry, written in that entry's format. -/
theorem bytes_of_decode {bs rest : List Byte} {i : Instr} (h : decode bs = .ok (i, rest)) :
    ∃ op e x y, dispatch op = some e ∧ i = e.instr x y ∧ e.bytes op x y ++ rest = bs := by
  cases bs with
  | nil => cases h
  | cons op tail =>
    obtain ⟨e, he⟩ := dispatch_mapped op
    cases e with
    | f1 j =>
      cases (decode_f1 he tail).symm.trans h
      exact ⟨op, _, 0, 0, he, rfl, rfl⟩
    | f2 k =>
      rcases tail with _ | ⟨v, tail⟩
      · simp [decode, he] at h
      · cases (decode_f2 he v tail).symm.trans h
        exact ⟨op, _, v, 0, he, rfl, rfl⟩
    | f3 k =>
      rcases tail with _ | ⟨lo, _ | ⟨hi, tail⟩⟩
      · simp [decode, he] at h
      · simp [decode, he] at h
      · cases (decode_f3 he lo hi tail).symm.trans h
        exact ⟨op, _, lo, hi, he, rfl, by rw [Handler.bytes, bytesF3_wordOf]; rfl⟩

/-- The entry of an opcode gives well-formed instructions whose encoding is that opcode in the entry's format: one case
per value of the three fields, so that no bit of the opcode is ignored (30_encoding.md R84). -/
theorem wellFormed_and_encode_instr {op : Byte} {e : Handler} (he : dispatch op = some e) (x y : Byte) :
    (e.instr x y).wellFormed = true ∧ encode (e.instr x y) = e.bytes op x y := by
  obtain ⟨g, a, b, rfl⟩ : ∃ g a b, opOctal g a b = op := ⟨_, _, _, opOctal_fields op⟩
  rcases bits2_cases g with rfl | rfl | rfl | rfl <;>
    rcases bits3_cases a with rfl | rfl | rfl | rfl | rfl | rfl | rfl | rfl <;>
    rcases bits3_cases b with rfl | rfl | rfl | rfl | rfl | rfl | rfl | rfl <;>
    cases he <;> exact ⟨rfl, rfl⟩

/-- Settles O5: what decodes stands in its entry's format, which is its encoding. -/
theorem encodeInvertsDecode : Obligations.EncodeInvertsDecode := by
  intro bs i rest h
  obtain ⟨op, e, x, y, he, rfl, rfl⟩ := bytes_of_decode h
  obtain ⟨hwf, henc⟩ := wellFormed_and_encode_instr he x y
  exact ⟨hwf, by rw [henc]⟩

/-! ## The length of an instruction -/

/-- How many operand bytes the entry's format takes (30_encoding.md R70). -/
def Handler.operandCount : Handler → Nat
  | .f1 _ => 0
  | .f2 _ => 1
  | .f3 _ => 2

/-- With two bytes after the opcode there are always enough: decoding answers the entry's instruction and drops its
operand bytes. -/
theorem decode_of_dispatch {op : Byte} {e : Handler} (he : dispatch op = some e) (x y : Byte) (rest : List Byte) :
    decode (op :: x :: y :: rest) = .ok (e.instr x y, (x :: y :: rest).drop e.operandCount) := by
  cases e with
  | f1 i => exact decode_f1 he _
  | f2 k => exact decode_f2 he x _
  | f3 k => exact decode_f3 he x y rest

/-- Settles O6: the operand count of each of the 256 entries is the one of the lists of R72. -/
theorem lengthDependsOnOpcodeAlone : Obligations.LengthDependsOnOpcodeAlone := by
  unfold Obligations.LengthDependsOnOpcodeAlone
  intro three two op x y rest
  have hcount : ∀ op : Byte,
      (dispatch op).map Handler.operandCount = some (if op ∈ three then 2 else if op ∈ two then 1 else 0) := by
    decide +zetaReduce
  obtain ⟨e, he⟩ := dispatch_mapped op
  have hop := hcount op
  rw [he, Option.map_some, Option.some.injEq] at hop
  refine ⟨e.instr x y, ?_⟩
  rw [decode_of_dispatch he, hop]
  split_ifs <;> rfl

end Sys2Proof

namespace Sys2Proof.Machine

/-! ## What a step runs -/

/-- Settles O2: a step of a stopped state changes nothing, and so do any number of them. -/
theorem haltedStepChangesNothing : Obligations.HaltedStepChangesNothing := by
  intro n s hmode hhalted
  have hstep : step s = .next s := by simp [step, isStopped, hmode, hhalted]
  exact ⟨hstep, run_of_step_eq core s hstep n⟩

/-- Settles O1: what decodes is well formed by O5, and the step runs it by `step_of_decode`. -/
theorem stepRunsTheDecodedInstruction : Obligations.StepRunsTheDecodedInstruction := by
  intro s i rest hrun hd
  have hassoc : s.pc + 2 = s.pc + 1 + 1 := (BitVec.add_assoc s.pc 1 1).symm
  exact ⟨(encodeInvertsDecode _ i rest hd).1, (fetchInstr_of_decode (hassoc ▸ hd)).1,
    step_of_decode ((isStopped_eq_false_iff s).2 hrun) hd⟩

end Sys2Proof.Machine
end

section
/-! PROOFS. What each named update keeps, in the terms of Safety, and the encodings and effects of the data transfer
instructions (40_data_transfer.md): O8, O9, O10, O11, O12, O13. -/

namespace Sys2Proof

open Sys2Proof.Safety

/-! ## Encodings -/

/-- A well-formed instruction's own bytes encode it, by O4. -/
theorem encodes_of_encode {i : Instr} {bs : List Byte} (hwf : i.wellFormed = true) (h : encode i = bs) : Encodes bs i :=
  fun rest => h ▸ decodeInvertsEncode i rest hwf

/-- A three-byte instruction has the low byte of its word first (30_encoding.md R74). -/
theorem encodes_of_bytesF3 {i : Instr} {op lo hi : Byte} (hwf : i.wellFormed = true)
    (h : encode i = bytesF3 op (wordOf hi lo)) : Encodes [op, lo, hi] i :=
  encodes_of_encode hwf (h.trans (bytesF3_wordOf op lo hi))

end Sys2Proof

namespace Sys2Proof.Safety

open Sys2Proof.Machine

/-- One change after another keeps what both keep. -/
theorem KeptBut.trans {ds ds' : List Reg8} {ms ms' : List Word} {s t u : State} (h : KeptBut ds ms s t)
    (h' : KeptBut ds' ms' t u) : KeptBut (ds ++ ds') (ms ++ ms') s u where
  regs r hr := by
    rw [List.mem_append, not_or] at hr
    exact (h'.regs r hr.2).trans (h.regs r hr.1)
  mem adr hadr := by
    rw [List.mem_append, not_or] at hadr
    exact (h'.mem adr hadr.2).trans (h.mem adr hadr.1)
  inPorts n := (h'.inPorts n).trans (h.inPorts n)
  outPorts n := (h'.outPorts n).trans (h.outPorts n)
  inte := h'.inte.trans h.inte
  halted := h'.halted.trans h.halted
  cyc := h'.cyc.trans h.cyc
  params := h'.params.trans h.params

end Sys2Proof.Safety

namespace Sys2Proof.Machine

open Sys2Proof.Safety

/-! ## What each update keeps -/

/-- A new register file that agrees outside `ds` changes nothing outside `ds`. -/
theorem keptBut_setRegs {ds : List Reg8} {f : Regs} {s : State}
    (h : ∀ r, r ∉ ds → regGet r { s with regs := f } = regGet r s) : KeptBut ds [] s { s with regs := f } where
  regs := h
  mem _ _ := rfl
  inPorts _ := rfl
  outPorts _ := rfl
  inte := rfl
  halted := rfl
  cyc := rfl
  params := rfl

theorem keptBut_regSet (r : Reg8) (v : Byte) (s : State) : KeptBut [r] [] s (regSet r v s) :=
  keptBut_setRegs fun q hq => (regGet_regSet q r v s).trans (if_neg (List.ne_of_not_mem_cons hq))

theorem keptBut_pairSet (p : Pair) (v : Word) (s : State) : KeptBut [pairHi p, pairLo p] [] s (pairSet p v s) :=
  keptBut_setRegs fun q hq => by
    obtain ⟨hhi, hlo⟩ : q ≠ pairHi p ∧ q ≠ pairLo p := by simpa using hq
    exact (regGet_pairSet q p v s).trans ((if_neg hlo).trans (if_neg hhi))

theorem keptBut_pairSpSet (p : PairSp) (v : Word) (s : State) : KeptBut (pairRegs p) [] s (pairSpSet p v s) := by
  cases p with
  | pair p =>
    rw [pairRegs_pair]
    exact keptBut_pairSet p v s
  | sp => exact ⟨fun _ _ => rfl, fun _ _ => rfl, fun _ => rfl, fun _ => rfl, rfl, rfl, rfl, rfl⟩

theorem keptBut_memWrite (adr : Word) (v : Byte) (s : State) : KeptBut [] [adr] s (memWrite adr v s) where
  regs _ _ := rfl
  mem _ hj := memRead_memWrite_ne (List.ne_of_not_mem_cons hj) v s
  inPorts _ := rfl
  outPorts _ := rfl
  inte := rfl
  halted := rfl
  cyc := rfl
  params := rfl

theorem keptBut_memWrite16 (adr v : Word) (s : State) : KeptBut [] [adr, adr + 1] s (memWrite16 adr v s) :=
  (keptBut_memWrite adr _ s).trans (keptBut_memWrite (adr + 1) _ _)

/-- The byte stored to is the one written, or the old one in the protected range (20_memory.md R42). -/
theorem stored_memWrite (adr : Word) (v : Byte) (s : State) : Stored adr v s (memWrite adr v s) := fun hwf => by
  simp only [memRead_memWrite_same hwf, isProtected_iff]

/-- A two-byte store puts the low byte at the lower address, each byte protected on its own (20_memory.md R47). -/
theorem stored_memWrite16 (adr v : Word) (s : State) :
    Stored adr (loByte v) s (memWrite16 adr v s) ∧ Stored (adr + 1) (hiByte v) s (memWrite16 adr v s) := by
  constructor <;> intro hwf
  · rw [(memRead_memWrite16_same hwf adr v).1]
    simp only [isProtected_iff]
  · rw [(memRead_memWrite16_same hwf adr v).2]
    simp only [isProtected_iff]

/-! ## Instructions that load one register, and instructions that store one byte -/

/-- An instruction whose meaning is one register write puts the byte there and changes nothing else. -/
theorem loads_of_exec {i : Instr} {r : Reg8} {v : Byte} {s : State} (h : exec i s = .next (regSet r v s)) :
    ∃ t, exec i s = .next t ∧ regGet r t = v ∧ KeptBut [r] [] s t ∧ SamePcSpFlags s t :=
  ⟨_, h, by rw [regGet_regSet, if_pos rfl], keptBut_regSet r v s, rfl, rfl, rfl⟩

/-- An instruction whose meaning is one store stores the byte there and changes nothing else. -/
theorem stores_of_exec {i : Instr} {adr : Word} {v : Byte} {s : State} (h : exec i s = .next (memWrite adr v s)) :
    ∃ t, exec i s = .next t ∧ Stored adr v s t ∧ KeptBut [] [adr] s t ∧ SamePcSpFlags s t :=
  ⟨_, h, stored_memWrite adr v s, keptBut_memWrite adr v s, rfl, rfl, rfl⟩

/-- Settles O10: each meaning is one store. -/
theorem storesWriteOneMemoryByte : Obligations.StoresWriteOneMemoryByte := by
  refine ⟨fun src s => ⟨?movMR, stores_of_exec rfl⟩, fun v s => ⟨encodes_of_encode rfl rfl, stores_of_exec rfl⟩,
    fun lo hi s => ⟨encodes_of_bytesF3 rfl rfl, stores_of_exec rfl⟩,
    fun s => ⟨encodes_of_encode rfl rfl, encodes_of_encode rfl rfl, stores_of_exec rfl, stores_of_exec rfl⟩⟩
  case movMR => exact encodes_of_encode rfl (by cases src <;> rfl)

/-- Settles O12: LHLD writes the pair HL with the two bytes read, SHLD is a two-byte store of it. -/
theorem lhldAndShldMoveTwoBytes : Obligations.LhldAndShldMoveTwoBytes := by
  refine ⟨fun lo hi s => ⟨encodes_of_bytesF3 rfl rfl, _, rfl, ?low, ?high, keptBut_pairSet .hl _ s, rfl, rfl, rfl⟩,
    fun lo hi s => ⟨encodes_of_bytesF3 rfl rfl, _, rfl, ?stored⟩⟩
  case low => exact loByte_wordOf _ _
  case high => exact hiByte_wordOf _ _
  case stored =>
    obtain ⟨hlow, hhigh⟩ := stored_memWrite16 (hi ++ lo) (hl s) s
    rw [hl, pairGet, loByte_wordOf] at hlow
    rw [hl, pairGet, hiByte_wordOf] at hhigh
    exact ⟨hlow, hhigh, keptBut_memWrite16 _ _ s, rfl, rfl, rfl⟩

/-- Settles O8: the meaning is one register write. -/
theorem movBetweenRegisters : Obligations.MovBetweenRegisters :=
  fun dst src _ => ⟨encodes_of_encode rfl (by cases dst <;> cases src <;> rfl), loads_of_exec rfl⟩

/-- Settles O9: each meaning is one register write, of a byte read before it. -/
theorem loadsCopyOneMemoryByte : Obligations.LoadsCopyOneMemoryByte := by
  refine ⟨fun dst s => ⟨?movRM, loads_of_exec rfl⟩, fun lo hi s => ⟨encodes_of_bytesF3 rfl rfl, ?lda⟩,
    fun s => ⟨encodes_of_encode rfl rfl, encodes_of_encode rfl rfl, ?ldaxBc, ?ldaxDe⟩⟩
  case movRM => exact encodes_of_encode rfl (by cases dst <;> rfl)
  case lda | ldaxBc | ldaxDe => exact loads_of_exec (r := .a) rfl

/-- Settles O11: MVI is one register write, LXI one write of a pair or of SP. -/
theorem immediateLoads : Obligations.ImmediateLoads := by
  refine ⟨fun dst v s => ⟨?mvi, loads_of_exec rfl⟩,
    fun p lo hi s => ⟨?lxi, _, rfl, ?halves, keptBut_pairSpSet p _ s, pairSpSet_pc .., pairSpSet_flags ..⟩⟩
  case mvi => exact encodes_of_encode rfl (by cases dst <;> rfl)
  case lxi => exact encodes_of_bytesF3 rfl (by rcases p with (_ | _ | _) | _ <;> rfl)
  case halves =>
    rcases p with (_ | _ | _) | _
    case sp => rfl
    all_goals exact ⟨hiByte_wordOf hi lo, loByte_wordOf hi lo, rfl⟩

/-- XCHG rewrites the four registers of DE and HL. -/
theorem exec_xchg (s : State) :
    exec .xchg s
      = .next { s with regs := { s.regs with d := s.regs.h, e := s.regs.l, h := s.regs.d, l := s.regs.e } } := by
  show Host.Outcome.next (pairSet .de (wordOf s.regs.h s.regs.l) (pairSet .hl (wordOf s.regs.d s.regs.e) s)) = _
  rw [pairSet_wordOf, pairSet_wordOf]
  rfl

/-- Settles O13: the registers of DE and HL are exchanged, and exchanged twice they are the first ones. -/
theorem xchgSwapsAndUndoesItself : Obligations.XchgSwapsAndUndoesItself := by
  refine fun s => ⟨encodes_of_encode rfl rfl, _, exec_xchg s, rfl, rfl, rfl, rfl, keptBut_setRegs fun r hr => ?others,
    ⟨rfl, rfl, rfl⟩, exec_xchg _⟩
  case others =>
    cases r with
    | b | c | a => rfl
    | d | e | h | l => simp at hr

end Sys2Proof.Machine
end

section
/-! PROOFS. The flags of an 8-bit result in the terms of Safety, and the increment and decrement instructions and DAD
(41_incdec.md): O14, O15, O16, O17. -/

namespace Sys2Proof.Safety

open Sys2Proof.Machine

/-- What is kept stays kept when the flags are then replaced. -/
theorem KeptBut.flagsSet {ds : List Reg8} {ms : List Word} {s t : State} (h : KeptBut ds ms s t) (f : Flags) :
    KeptBut ds ms s (flagsSet f t) :=
  ⟨h.regs, h.mem, h.inPorts, h.outPorts, h.inte, h.halted, h.cyc, h.params⟩

end Sys2Proof.Safety

namespace Sys2Proof.Machine

open Sys2Proof.Safety

/-! ## Flags of an 8-bit result -/

@[simp] theorem regGet_flagsSet (r : Reg8) (f : Flags) (s : State) : regGet r (flagsSet f s) = regGet r s := rfl

/-- `ZSP(v)` gives the flags of the result `v`, AC and CY as they stood (10_state.md R24). -/
theorem zsp_eq_flagsOf (v : Byte) (f : Flags) : zsp v f = flagsOf v f.ac f.cy := by
  have hsign : v.getLsbD 7 = decide (128 ≤ v.toNat) := BitVec.msb_eq_decide v
  have hzero : decide (v = 0) = decide (v.toNat = 0) := decide_eq_decide.2 BitVec.toNat_eq
  rw [zsp, flagsOf, hsign, hzero, ones_eq_bitCount]
  rfl

theorem incFlags_eq_flagsOf (v : Byte) (f : Flags) :
    incFlags v f = flagsOf (incByte v) (decide (v.toNat % 16 = 15)) f.cy :=
  zsp_eq_flagsOf _ _

theorem decFlags_eq_flagsOf (v : Byte) (f : Flags) :
    decFlags v f = flagsOf (decByte v) (decide (v.toNat % 16 ≠ 0)) f.cy :=
  zsp_eq_flagsOf _ _

/-! ## Adding and subtracting one -/

theorem toNat_incByte (v : Byte) : (incByte v).toNat = (v.toNat + 1) % 256 :=
  BitVec.toNat_add v 1

theorem toNat_decByte (v : Byte) : (decByte v).toNat = (v.toNat + 255) % 256 :=
  BitVec.toNat_sub' v 1

@[simp] theorem decByte_incByte (v : Byte) : decByte (incByte v) = v := BitVec.add_sub_cancel v 1

/-! ## Instructions that put a result with its flags back where the operand came from -/

/-- An instruction that writes `r` to a register and sets the flags of `r`, CY kept. -/
theorem updatesReg_of_exec {i : Instr} {dst : Reg8} {r : Byte} {f : Flags} {ac : Bool} {n : Nat} {s : State}
    (h : exec i s = .next (flagsSet f (regSet dst r s))) (hr : r.toNat = n) (hf : f = flagsOf r ac s.flags.cy) :
    ∃ t, exec i s = .next t ∧ (regGet dst t).toNat = n ∧ t.flags = flagsOf (regGet dst t) ac s.flags.cy
      ∧ KeptBut [dst] [] s t ∧ t.pc = s.pc ∧ t.sp = s.sp := by
  have hread : regGet dst (flagsSet f (regSet dst r s)) = r := (regGet_regSet dst dst r s).trans (if_pos rfl)
  exact ⟨_, h, by rw [hread, hr], by rw [hread, ← hf]; rfl, (keptBut_regSet dst r s).flagsSet f, rfl, rfl⟩

/-- An instruction that stores `r` and sets the flags of `r`, CY kept, whether or not the store is dropped. -/
theorem updatesMem_of_exec {i : Instr} {adr : Word} {r : Byte} {f : Flags} {ac : Bool} {n : Nat} {s : State}
    (h : exec i s = .next (flagsSet f (memWrite adr r s))) (hr : r.toNat = n) (hf : f = flagsOf r ac s.flags.cy) :
    ∃ (t : State) (v : Byte), exec i s = .next t ∧ v.toNat = n ∧ Stored adr v s t
      ∧ t.flags = flagsOf v ac s.flags.cy ∧ KeptBut [] [adr] s t ∧ t.pc = s.pc ∧ t.sp = s.sp :=
  ⟨_, r, h, hr, stored_memWrite adr r s, hf, (keptBut_memWrite adr r s).flagsSet f, rfl, rfl⟩

/-- An instruction whose meaning is one write of a pair or of SP. -/
theorem updatesPairSp_of_exec {i : Instr} {p : PairSp} {v : Word} {n : Nat} {s : State}
    (h : exec i s = .next (pairSpSet p v s)) (hv : v.toNat = n) :
    ∃ t, exec i s = .next t ∧ (pairSpGet p t).toNat = n ∧ KeptBut (pairRegs p) [] s t ∧ (p ≠ .sp → t.sp = s.sp)
      ∧ t.pc = s.pc ∧ t.flags = s.flags := by
  have hread : pairSpGet p (pairSpSet p v s) = v := (pairSpGet_pairSpSet p p v s).trans (if_pos rfl)
  exact ⟨_, h, by rw [hread, hv], keptBut_pairSpSet p v s, fun hp => (pairSpSet_sp p v s).trans (if_neg hp),
    pairSpSet_pc p v s, pairSpSet_flags p v s⟩

/-- Settles O14: each meaning is one register write with the flags of the byte written. -/
theorem incrementAndDecrementRegister : Obligations.IncrementAndDecrementRegister := by
  refine ⟨fun dst s => ⟨?inr, updatesReg_of_exec rfl (toNat_incByte _) (incFlags_eq_flagsOf _ _)⟩,
    fun dst s => ⟨?dcr, updatesReg_of_exec rfl (toNat_decByte _) (decFlags_eq_flagsOf _ _)⟩,
    fun dst s => ⟨_, _, rfl, rfl, ?inrThenDcr⟩⟩
  case inr | dcr => exact encodes_of_encode rfl (by cases dst <;> rfl)
  case inrThenDcr => simp only [regGet_flagsSet, regGet_regSet, if_true, decByte_incByte]

/-- Settles O15: each meaning is one store at HL with the flags of the byte stored. -/
theorem incrementAndDecrementMemory : Obligations.IncrementAndDecrementMemory := fun _ =>
  ⟨⟨encodes_of_encode rfl rfl, updatesMem_of_exec rfl (toNat_incByte _) (incFlags_eq_flagsOf _ _)⟩,
    ⟨encodes_of_encode rfl rfl, updatesMem_of_exec rfl (toNat_decByte _) (decFlags_eq_flagsOf _ _)⟩⟩

/-- Settles O16: each meaning is one write of the pair or of SP. -/
theorem pairIncrementAndDecrement : Obligations.PairIncrementAndDecrement := by
  refine ⟨fun p s => ⟨?inx, updatesPairSp_of_exec rfl (BitVec.toNat_add _ 1)⟩,
    fun p s => ⟨?dcx, updatesPairSp_of_exec rfl (BitVec.toNat_sub' _ 1)⟩⟩
  case inx | dcx => exact encodes_of_encode rfl (by rcases p with (_ | _ | _) | _ <;> rfl)

/-- Settles O17: DAD writes the 16-bit sum to HL and its carry to CY. -/
theorem dadAddsAndWritesOnlyCarry : Obligations.DadAddsAndWritesOnlyCarry := by
  refine fun p s => ⟨?dad, _, rfl, ?sum, rfl, (keptBut_pairSet .hl _ s).flagsSet _, rfl, rfl⟩
  case dad => exact encodes_of_encode rfl (by rcases p with (_ | _ | _) | _ <;> rfl)
  case sum =>
    exact (congrArg BitVec.toNat (pairGet_pairSet_same .hl (hl s + pairSpGet p s) s)).trans (BitVec.toNat_add _ _)

end Sys2Proof.Machine
end

section
/-! PROOFS. The adder and the subtractor in the natural numbers, and the 8-bit arithmetic instructions
(42_arithmetic.md): O19, O20, O22. -/

namespace Sys2Proof

open Sys2Proof.Safety

/-- The opcode byte of operation `x` on operand `y` in group 2 (30_encoding.md R80). -/
theorem opOctal_group2 : ∀ x y : BitVec 3, opOctal 2 x y = .ofNat 8 (0x80 + x.toNat * 8 + y.toNat) := by
  decide

/-- An instruction of group 2 is the one byte of its operation and its operand. -/
theorem encodes_group2 {i : Instr} {o : Operand8} (x : BitVec 3) (hwf : i.wellFormed = true)
    (h : encode i = [opOctal 2 x (codeOfOperand o)]) :
    Encodes [.ofNat 8 (0x80 + x.toNat * 8 + (codeOfOperand o).toNat)] i :=
  encodes_of_encode hwf (h.trans (congrArg ([·]) (opOctal_group2 x _)))

end Sys2Proof

namespace Sys2Proof.Machine

open Sys2Proof.Safety

/-! ## The adder and the subtractor -/

theorem toNat_add8_r (x y : Byte) (cin : Bool) :
    (add8 x y cin).r.toNat = (x.toNat + y.toNat + cin.toNat) % 256 :=
  BitVec.toNat_ofNat _ 8

theorem toNat_sub8_r (x y : Byte) (bin : Bool) :
    (sub8 x y bin).r.toNat = (256 + x.toNat - y.toNat - bin.toNat) % 256 := by
  have hy := y.isLt
  have hbin := bin.toNat_le
  rw [sub8, BitVec.toNat_ofInt]
  omega

/-- The carry of a subtraction is the borrow. -/
theorem sub8_cy (x y : Byte) (bin : Bool) : (sub8 x y bin).cy = decide (x.toNat < y.toNat + bin.toNat) :=
  decide_eq_decide.2 (by omega)

/-- Complementing a byte complements its low nibble. -/
theorem loNibble_not (y : Byte) : loNibble (~~~y) = 15 - loNibble y := by
  have hy := y.isLt
  rw [loNibble, loNibble, BitVec.toNat_not]
  omega

/-- The auxiliary carry of a subtraction is 1 when the low nibble does not borrow. -/
theorem sub8_ac (x y : Byte) (bin : Bool) :
    (sub8 x y bin).ac = decide (y.toNat % 16 + bin.toNat ≤ x.toNat % 16) := by
  have hbin := bin.toNat_le
  refine decide_eq_decide.2 ?_
  rw [loNibble_not, loNibble, loNibble]
  omega

/-! ## Subtraction as the addition of the complement (42_arithmetic.md R136) -/

theorem toNat_bnot (b : Bool) : (!b).toNat = 1 - b.toNat := by cases b <;> rfl

/-- `~y` is `255 - y`, so both results are `x - y - bin` modulo 256. -/
theorem sub8_r_eq_add8_not (x y : Byte) (bin : Bool) : (sub8 x y bin).r = (add8 x (~~~y) (!bin)).r := by
  have hy := y.isLt
  have hbin := bin.toNat_le
  apply BitVec.eq_of_toNat_eq
  rw [toNat_sub8_r, toNat_add8_r, BitVec.toNat_not, toNat_bnot]
  omega

theorem sub8_cy_eq_not_add8_not (x y : Byte) (bin : Bool) :
    (sub8 x y bin).cy = !(add8 x (~~~y) (!bin)).cy := by
  have hy := y.isLt
  have hbin := bin.toNat_le
  rw [sub8_cy, add8, ← decide_not, decide_eq_decide, BitVec.toNat_not, toNat_bnot]
  omega

theorem sub8_ac_eq_add8_not (x y : Byte) (bin : Bool) : (sub8 x y bin).ac = (add8 x (~~~y) (!bin)).ac := by
  rw [sub8, add8, toNat_bnot]

/-- Settles O22: result, borrow and auxiliary carry, each as the value of the complement addition and as a number. -/
theorem subtractionIsComplementAddition : Obligations.SubtractionIsComplementAddition := fun x y bin =>
  ⟨toNat_sub8_r x y bin, sub8_r_eq_add8_not x y bin, sub8_cy_eq_not_add8_not x y bin, sub8_ac_eq_add8_not x y bin,
    sub8_cy x y bin, sub8_ac x y bin⟩

/-! ## Instructions that put an adder's output into A and the flags -/

theorem aluFlags_eq_flagsOf (o : AluOut) (f : Flags) : aluFlags o f = flagsOf o.r o.ac o.cy :=
  zsp_eq_flagsOf _ _

/-- An instruction whose meaning is `aluToAcc` puts the result into A, sets the five flags and changes nothing else. -/
theorem updatesAcc_of_exec {i : Instr} {o : AluOut} {n : Nat} {ac cy : Bool} {s : State}
    (h : exec i s = .next (aluToAcc o s)) (hr : o.r.toNat = n) (hac : o.ac = ac) (hcy : o.cy = cy) :
    ∃ t, exec i s = .next t ∧ t.regs.a.toNat = n ∧ t.flags = flagsOf t.regs.a ac cy
      ∧ KeptBut [.a] [] s t ∧ t.pc = s.pc ∧ t.sp = s.sp := by
  subst hac hcy
  exact ⟨_, h, hr, aluFlags_eq_flagsOf o s.flags, (keptBut_regSet .a o.r s).flagsSet _, rfl, rfl⟩

theorem addsToA_of_exec {i : Instr} {b : Byte} {cin : Bool} {s : State}
    (h : exec i s = .next (aluToAcc (add8 s.regs.a b cin) s)) : AddsToA i b cin s :=
  updatesAcc_of_exec h (toNat_add8_r _ _ _) rfl rfl

theorem subtractsFromA_of_exec {i : Instr} {b : Byte} {bin : Bool} {s : State}
    (h : exec i s = .next (aluToAcc (sub8 s.regs.a b bin) s)) : SubtractsFromA i b bin s :=
  updatesAcc_of_exec h (toNat_sub8_r _ _ _) (sub8_ac _ _ _) (sub8_cy _ _ _)

/-- Settles O19: each meaning is the adder's output put into A and the flags. -/
theorem additionInstructions : Obligations.AdditionInstructions :=
  ⟨fun _ _ => ⟨encodes_group2 0 rfl rfl, addsToA_of_exec rfl⟩,
    fun _ _ => ⟨encodes_group2 1 rfl rfl, addsToA_of_exec rfl⟩,
    fun _ _ => ⟨encodes_of_encode rfl rfl, addsToA_of_exec rfl⟩,
    fun _ _ => ⟨encodes_of_encode rfl rfl, addsToA_of_exec rfl⟩⟩

/-- Settles O20: each meaning is the subtractor's output put into A and the flags. -/
theorem subtractionInstructions : Obligations.SubtractionInstructions :=
  ⟨fun _ _ => ⟨encodes_group2 2 rfl rfl, subtractsFromA_of_exec rfl⟩,
    fun _ _ => ⟨encodes_group2 3 rfl rfl, subtractsFromA_of_exec rfl⟩,
    fun _ _ => ⟨encodes_of_encode rfl rfl, subtractsFromA_of_exec rfl⟩,
    fun _ _ => ⟨encodes_of_encode rfl rfl, subtractsFromA_of_exec rfl⟩⟩

end Sys2Proof.Machine
end

section
/-! PROOFS. The logical, compare, complement and carry instructions (43_logical.md): O23, O24, O25. -/

namespace Sys2Proof.Safety

open Sys2Proof.Machine

theorem KeptBut.refl (s : State) : KeptBut [] [] s s :=
  keptBut_setRegs (f := s.regs) fun _ _ => rfl

end Sys2Proof.Safety

namespace Sys2Proof.Machine

open Sys2Proof.Safety

/-! ## Logical operations -/

theorem andFlags_eq_flagsOf (x y : Byte) (f : Flags) :
    andFlags x y f = flagsOf (x &&& y) (x.getLsbD 3 || y.getLsbD 3) false :=
  zsp_eq_flagsOf _ _

theorem logicFlags_eq_flagsOf (r : Byte) (f : Flags) : logicFlags r f = flagsOf r false false :=
  zsp_eq_flagsOf _ _

/-- An instruction that writes `r` to A and sets the flags of `r` with CY = 0. -/
theorem logicToA_of_flagsSet {i : Instr} {r : Byte} {f : Flags} {ac : Bool} {s : State}
    (h : exec i s = .next (flagsSet f (accSet r s))) (hf : f = flagsOf r ac false) : LogicToA i r ac s :=
  ⟨_, h, rfl, hf, (keptBut_regSet .a r s).flagsSet f, rfl, rfl⟩

theorem logicToA_of_andToAcc {i : Instr} {v : Byte} {s : State} (h : exec i s = .next (andToAcc v s)) :
    LogicToA i (s.regs.a &&& v) (s.regs.a.getLsbD 3 || v.getLsbD 3) s :=
  logicToA_of_flagsSet h (andFlags_eq_flagsOf _ _ _)

theorem logicToA_of_logicToAcc {i : Instr} {r : Byte} {s : State} (h : exec i s = .next (logicToAcc r s)) :
    LogicToA i r false s :=
  logicToA_of_flagsSet h (logicFlags_eq_flagsOf _ _)

/-- Settles O23: each meaning puts the bitwise result into A with its flags, AC by `andFlags` or by `logicFlags`. -/
theorem bitwiseInstructions : Obligations.BitwiseInstructions :=
  ⟨fun _ _ => ⟨encodes_group2 4 rfl rfl, logicToA_of_andToAcc rfl⟩,
    fun _ _ => ⟨encodes_group2 5 rfl rfl, logicToA_of_logicToAcc rfl⟩,
    fun _ _ => ⟨encodes_group2 6 rfl rfl, logicToA_of_logicToAcc rfl⟩,
    fun _ _ => ⟨encodes_of_encode rfl rfl, logicToA_of_andToAcc rfl⟩,
    fun _ _ => ⟨encodes_of_encode rfl rfl, logicToA_of_logicToAcc rfl⟩,
    fun _ _ => ⟨encodes_of_encode rfl rfl, logicToA_of_logicToAcc rfl⟩⟩

/-! ## Comparison -/

/-- Without a borrow in, the subtractor's result is the difference of the bytes. -/
theorem sub8_r_eq_sub (x y : Byte) : (sub8 x y false).r = x - y := by
  have hy := y.isLt
  apply BitVec.eq_of_toNat_eq
  rw [toNat_sub8_r, BitVec.toNat_sub, Bool.toNat_false]
  omega

/-- The flags of a comparison are those of the difference (43_logical.md R153). -/
theorem aluFlags_sub8_eq_flagsOf (x y : Byte) (f : Flags) :
    aluFlags (sub8 x y false) f
      = flagsOf (x - y) (decide (y.toNat % 16 ≤ x.toNat % 16)) (decide (x.toNat < y.toNat)) := by
  rw [aluFlags_eq_flagsOf, sub8_r_eq_sub, sub8_ac, sub8_cy]
  rfl

/-- The difference of two bytes sets Z exactly when they are equal. -/
theorem flagsOf_sub_z (x y : Byte) (ac cy : Bool) : (flagsOf (x - y) ac cy).z = true ↔ x = y :=
  calc (flagsOf (x - y) ac cy).z = true
      ↔ (x - y).toNat = (0 : Byte).toNat := decide_eq_true_iff
    _ ↔ x - y = 0 := BitVec.toNat_inj
    _ ↔ x = y := sub_eq_zero

/-- An instruction that sets the flags of a subtraction from A and nothing else. -/
theorem comparesWithA_of_exec {i : Instr} {v : Byte} {s : State}
    (h : exec i s = .next (aluToFlags (sub8 s.regs.a v false) s)) : ComparesWithA i v s := by
  have hflags := aluFlags_sub8_eq_flagsOf s.regs.a v s.flags
  refine ⟨_, h, hflags, ?zero, (KeptBut.refl s).flagsSet _, rfl, rfl⟩
  case zero => rw [aluToFlags_flags, hflags, flagsOf_sub_z]

/-- Settles O24: each meaning sets the flags of the subtractor's output and keeps A. -/
theorem compareInstructions : Obligations.CompareInstructions :=
  ⟨fun _ _ => ⟨encodes_group2 7 rfl rfl, comparesWithA_of_exec rfl⟩,
    fun _ _ => ⟨encodes_of_encode rfl rfl, comparesWithA_of_exec rfl⟩⟩

/-! ## Complement and carry -/

/-- Complementing A twice gives the first state back (43_logical.md R158). -/
theorem exec_cma_accSet_not (s : State) : exec .cma (accSet (~~~s.regs.a) s) = .next s :=
  congrArg (fun v => Host.Outcome.next (accSet v s)) (BitVec.not_not (b := s.regs.a))

/-- An instruction that writes CY keeps every other flag and everything else. -/
theorem writesCarry_of_exec {i : Instr} {v w : Bool} {s : State} (h : exec i s = .next (cySet v s)) (hv : v = w) :
    ∃ t, exec i s = .next t ∧ t.flags = { s.flags with cy := w } ∧ KeptBut [] [] s t ∧ t.pc = s.pc ∧ t.sp = s.sp := by
  subst hv
  exact ⟨_, h, rfl, (KeptBut.refl s).flagsSet _, rfl, rfl⟩

/-- `1 - CY` is the complement of CY (43_logical.md R160). -/
theorem not_eq_decide_toNat_eq_zero (b : Bool) : (!b) = decide (b.toNat = 0) := by cases b <;> rfl

/-- Settles O25: CMA is one write of A, STC and CMC one write of CY each. -/
theorem complementAndCarryInstructions : Obligations.ComplementAndCarryInstructions := fun s =>
  ⟨⟨encodes_of_encode rfl rfl, _, rfl, BitVec.toNat_not, keptBut_regSet .a _ s, ⟨rfl, rfl, rfl⟩, exec_cma_accSet_not s⟩,
    ⟨encodes_of_encode rfl rfl, writesCarry_of_exec rfl rfl⟩,
    ⟨encodes_of_encode rfl rfl, writesCarry_of_exec rfl (not_eq_decide_toNat_eq_zero s.flags.cy)⟩⟩

end Sys2Proof.Machine
end

section
/-! PROOFS. The rotates bit by bit, alone and repeated, and the decimal adjustment (44_rotate_daa.md): O26, O27, O28,
O29. -/

namespace Sys2Proof.Machine

open Sys2Proof.Safety

/-! ## The bits of a byte moved left or right by one -/

/-- Moving left is doubling modulo 256, with the new bit at the bottom. -/
theorem rotLeft_eq_shiftConcat (a : Byte) (low : Bool) : rotLeft a low = a.shiftConcat low := by
  have hlow := low.toNat_le
  apply BitVec.eq_of_toNat_eq
  rw [rotLeft, BitVec.toNat_ofNat, BitVec.toNat_shiftConcat, Nat.shiftLeft_eq]
  omega

@[simp] theorem getLsbD_rotLeft_zero (a : Byte) (low : Bool) : (rotLeft a low).getLsbD 0 = low := by
  rw [rotLeft_eq_shiftConcat, BitVec.getLsbD_shiftConcat]
  rfl

theorem getLsbD_rotLeft_succ {k : Nat} (hk : k < 7) (a : Byte) (low : Bool) :
    (rotLeft a low).getLsbD (k + 1) = a.getLsbD k := by
  rw [rotLeft_eq_shiftConcat, BitVec.getLsbD_shiftConcat, decide_eq_true (by omega)]
  rfl

/-- Moving right is halving, with the new bit at the top: the upper eight bits of `{high, A}`. -/
theorem getLsbD_rotRight {k : Nat} (hk : k < 8) (a : Byte) (high : Bool) :
    (rotRight a high).getLsbD k = (BitVec.cons high a).getLsbD (k + 1) := by
  have hhalf : a.toNat / 2 + high.toNat * 128 = (BitVec.cons high a).toNat / 2 := by
    rw [BitVec.toNat_cons', Nat.shiftLeft_eq]
    omega
  rw [rotRight, BitVec.getLsbD_ofNat, decide_eq_true hk, Bool.true_and, hhalf, Nat.testBit_div_two,
    BitVec.testBit_toNat]

@[simp] theorem getLsbD_rotRight_seven (a : Byte) (high : Bool) : (rotRight a high).getLsbD 7 = high := by
  rw [getLsbD_rotRight (by decide), BitVec.getLsbD_cons, if_pos rfl]

theorem getLsbD_rotRight_of_lt {k : Nat} (hk : k < 7) (a : Byte) (high : Bool) :
    (rotRight a high).getLsbD k = a.getLsbD (k + 1) := by
  rw [getLsbD_rotRight (by omega), BitVec.getLsbD_cons, if_neg (by omega)]

/-- Moving right undoes moving left when the bit that fell out at the top comes back there. -/
theorem rotRight_rotLeft (a : Byte) (low : Bool) : rotRight (rotLeft a low) (a.getLsbD 7) = a := by
  apply BitVec.eq_of_getLsbD_eq
  intro k hk
  obtain hk7 | rfl : k < 7 ∨ k = 7 := by omega
  · rw [getLsbD_rotRight_of_lt hk7, getLsbD_rotLeft_succ hk7]
  · exact getLsbD_rotRight_seven _ _

/-! ## One rotate -/

theorem keptBut_rotateToAcc (r : Byte) (cy : Bool) (s : State) : KeptBut [.a] [] s (rotateToAcc r cy s) :=
  (keptBut_regSet .a r s).flagsSet _

/-- An instruction that moves A left by one and writes CY. -/
theorem rotatesLeft_of_exec {i : Instr} {low cy : Bool} {s : State}
    (h : exec i s = .next (rotateToAcc (rotLeft s.regs.a low) cy s)) :
    ∃ t, exec i s = .next t ∧ (∀ k, k < 7 → t.regs.a.getLsbD (k + 1) = s.regs.a.getLsbD k)
      ∧ t.regs.a.getLsbD 0 = low ∧ t.flags = { s.flags with cy := cy }
      ∧ KeptBut [.a] [] s t ∧ t.pc = s.pc ∧ t.sp = s.sp :=
  ⟨_, h, fun _ hk => getLsbD_rotLeft_succ hk _ _, getLsbD_rotLeft_zero _ _, rfl, keptBut_rotateToAcc _ _ s, rfl, rfl⟩

/-- An instruction that moves A right by one and writes CY. -/
theorem rotatesRight_of_exec {i : Instr} {high cy : Bool} {s : State}
    (h : exec i s = .next (rotateToAcc (rotRight s.regs.a high) cy s)) :
    ∃ t, exec i s = .next t ∧ (∀ k, k < 7 → t.regs.a.getLsbD k = s.regs.a.getLsbD (k + 1))
      ∧ t.regs.a.getLsbD 7 = high ∧ t.flags = { s.flags with cy := cy }
      ∧ KeptBut [.a] [] s t ∧ t.pc = s.pc ∧ t.sp = s.sp :=
  ⟨_, h, fun _ hk => getLsbD_rotRight_of_lt hk _ _, getLsbD_rotRight_seven _ _, rfl, keptBut_rotateToAcc _ _ s, rfl,
    rfl⟩

/-- Settles O26: each meaning moves A by one bit, the bit moved in and the bit written to CY read off its definition. -/
theorem rotateInstructions : Obligations.RotateInstructions := fun _ =>
  ⟨⟨encodes_of_encode rfl rfl, rotatesLeft_of_exec rfl⟩, ⟨encodes_of_encode rfl rfl, rotatesRight_of_exec rfl⟩,
    ⟨encodes_of_encode rfl rfl, rotatesLeft_of_exec rfl⟩, ⟨encodes_of_encode rfl rfl, rotatesRight_of_exec rfl⟩⟩

/-! ## Repeated rotates -/

/-- An instruction whose meaning is the function `g` on states, n times, is `g` n times. -/
theorem execTimes_eq_iterate {i : Instr} {g : State → State} (h : ∀ s, exec i s = .next (g s)) (n : Nat) (s : State) :
    execTimes n i s = .next (g^[n] s) := by
  induction n generalizing s with
  | zero => rfl
  | succ n ih =>
    rw [execTimes, h]
    exact ih (g s)

section Ring

variable {w : Nat} {f : BitVec (w + 1) → BitVec (w + 1)}

/-- After n rotations by one to the left, bit k is the bit n places below it on the ring. -/
theorem getLsbD_iterate_of_rotates (hzero : ∀ x, (f x).getLsbD 0 = x.getLsbD w)
    (hsucc : ∀ x k, k < w → (f x).getLsbD (k + 1) = x.getLsbD k) (n : Nat) (x : BitVec (w + 1)) {k : Nat}
    (hk : k < w + 1) : (f^[n] x).getLsbD k = x.getLsbD ((k + n * w) % (w + 1)) := by
  induction n generalizing k with
  | zero => simp [Nat.mod_eq_of_lt hk]
  | succ n ih =>
    rw [Function.iterate_succ_apply', Nat.succ_mul]
    cases k with
    | zero => rw [hzero, ih (Nat.lt_succ_self w), Nat.zero_add, Nat.add_comm w (n * w)]
    | succ k =>
      have hplace : k + 1 + (n * w + w) = k + n * w + (w + 1) := by omega
      rw [hsucc _ _ (Nat.lt_of_succ_lt_succ hk), ih (Nat.lt_of_succ_lt hk), hplace, Nat.add_mod_right]

/-- As many rotations by one as the ring has bits give back the ring. -/
theorem iterate_width_of_rotates (hzero : ∀ x, (f x).getLsbD 0 = x.getLsbD w)
    (hsucc : ∀ x k, k < w → (f x).getLsbD (k + 1) = x.getLsbD k) (x : BitVec (w + 1)) : f^[w + 1] x = x := by
  apply BitVec.eq_of_getLsbD_eq
  intro k hk
  rw [getLsbD_iterate_of_rotates hzero hsucc _ _ hk, Nat.add_mul_mod_self_left, Nat.mod_eq_of_lt hk]

end Ring

/-! ### Within A -/

/-- A after `RLC` (R170). -/
def rlcByte (a : Byte) : Byte := rotLeft a (a.getLsbD 7)

/-- A after `RRC` (R171). -/
def rrcByte (a : Byte) : Byte := rotRight a (a.getLsbD 0)

theorem rrcByte_rlcByte : Function.LeftInverse rrcByte rlcByte := fun a => by
  rw [rrcByte, rlcByte, getLsbD_rotLeft_zero, rotRight_rotLeft]

/-- A is a ring of eight bits to RLC. -/
theorem iterate_eight_rlcByte (a : Byte) : rlcByte^[8] a = a :=
  iterate_width_of_rotates (fun _ => getLsbD_rotLeft_zero _ _) (fun _ _ hk => getLsbD_rotLeft_succ hk _ _) a

/-- RRC undoes RLC, so eight of them undo eight RLC, which change nothing. -/
theorem iterate_eight_rrcByte (a : Byte) : rrcByte^[8] a = a := by
  have hundo := rrcByte_rlcByte.iterate 8 a
  rwa [iterate_eight_rlcByte] at hundo

/-- An instruction that rotates A within itself does so n times in n executions, and changes no other register. -/
theorem execTimes_regs {i : Instr} {f : Byte → Byte} {carry : Byte → Bool}
    (h : ∀ s, exec i s = .next (rotateToAcc (f s.regs.a) (carry s.regs.a) s)) (n : Nat) (s : State) :
    ∃ t, execTimes n i s = .next t ∧ t.regs = { s.regs with a := f^[n] s.regs.a } := by
  induction n generalizing s with
  | zero => exact ⟨s, rfl, rfl⟩
  | succ n ih =>
    rw [execTimes, h]
    exact ih _

/-- When n rotations of A give A back, n executions give the register file back. -/
theorem execTimes_restores_regs {i : Instr} {f : Byte → Byte} {carry : Byte → Bool} {n : Nat}
    (h : ∀ s, exec i s = .next (rotateToAcc (f s.regs.a) (carry s.regs.a) s)) (hf : ∀ a, f^[n] a = a) (s : State) :
    ∃ t, execTimes n i s = .next t ∧ t.regs = s.regs := by
  obtain ⟨t, ht, hregs⟩ := execTimes_regs h n s
  rw [hf] at hregs
  exact ⟨t, ht, hregs⟩

/-! ### Through CY -/

/-- The state after `RAL` (R172). -/
def afterRal (s : State) : State := rotateToAcc (rotLeft s.regs.a s.flags.cy) (s.regs.a.getLsbD 7) s

/-- The state after `RAR` (R173). -/
def afterRar (s : State) : State := rotateToAcc (rotRight s.regs.a s.flags.cy) (s.regs.a.getLsbD 0) s

theorem afterRar_afterRal : Function.LeftInverse afterRar afterRal := fun s => by
  have hbyte : rotRight (rotLeft s.regs.a s.flags.cy) (s.regs.a.getLsbD 7) = s.regs.a := rotRight_rotLeft _ _
  have hcarry : (rotLeft s.regs.a s.flags.cy).getLsbD 0 = s.flags.cy := getLsbD_rotLeft_zero _ _
  simp only [afterRar, afterRal, rotateToAcc_regs, rotateToAcc_flags, hbyte, hcarry]
  rfl

/-- CY and A as one ring of nine bits, CY at the top. -/
def carryRing (s : State) : BitVec 9 := BitVec.cons s.flags.cy s.regs.a

/-- The state with CY and A taken from a ring. -/
def carryRingSet (x : BitVec 9) (s : State) : State := rotateToAcc (x.setWidth 8) x.msb s

theorem carryRingSet_cons (cy : Bool) (a : Byte) (s : State) :
    carryRingSet (BitVec.cons cy a) s = rotateToAcc a cy s := by
  rw [carryRingSet, BitVec.setWidth_cons, BitVec.msb_cons]

theorem carryRingSet_carryRing (s : State) : carryRingSet (carryRing s) s = s :=
  carryRingSet_cons _ _ s

/-- What `RAL` does to the ring. -/
def ralRing (x : BitVec 9) : BitVec 9 := BitVec.cons ((x.setWidth 8).getLsbD 7) (rotLeft (x.setWidth 8) x.msb)

theorem afterRal_carryRingSet (s : State) :
    Function.Semiconj (carryRingSet · s) ralRing afterRal :=
  fun _ => carryRingSet_cons _ _ s

theorem getLsbD_ralRing_zero (x : BitVec 9) : (ralRing x).getLsbD 0 = x.getLsbD 8 := by
  rw [ralRing, BitVec.getLsbD_cons, if_neg (by decide), getLsbD_rotLeft_zero]
  rfl

theorem getLsbD_ralRing_succ {k : Nat} (hk : k < 8) (x : BitVec 9) : (ralRing x).getLsbD (k + 1) = x.getLsbD k := by
  have hlow : (x.setWidth 8).getLsbD k = x.getLsbD k := by
    rw [BitVec.getLsbD_setWidth, decide_eq_true hk, Bool.true_and]
  obtain hk7 | rfl : k < 7 ∨ k = 7 := by omega
  · rw [ralRing, BitVec.getLsbD_cons, if_neg (by omega), getLsbD_rotLeft_succ hk7, hlow]
  · rw [ralRing, BitVec.getLsbD_cons, if_pos rfl, hlow]

/-- Nine RAL turn the ring once around. -/
theorem iterate_nine_afterRal (s : State) : afterRal^[9] s = s :=
  calc afterRal^[9] s
      = afterRal^[9] (carryRingSet (carryRing s) s) := by rw [carryRingSet_carryRing]
    _ = carryRingSet (ralRing^[9] (carryRing s)) s := ((afterRal_carryRingSet s).iterate_right 9 _).symm
    _ = carryRingSet (carryRing s) s := by
      rw [iterate_width_of_rotates getLsbD_ralRing_zero fun x _ hk => getLsbD_ralRing_succ hk x]
    _ = s := carryRingSet_carryRing s

/-- RAR undoes RAL, so nine of them undo nine RAL, which change nothing. -/
theorem iterate_nine_afterRar (s : State) : afterRar^[9] s = s := by
  have hundo := afterRar_afterRal.iterate 9 s
  rwa [iterate_nine_afterRal] at hundo

/-- RLC and then RRC give A back and leave in CY the bit that went around. -/
theorem exec_rlc_then_rrc (s : State) :
    ∃ t u, exec .rlc s = .next t ∧ exec .rrc t = .next u
      ∧ u.regs = s.regs ∧ u.flags = { s.flags with cy := s.regs.a.getLsbD 7 } := by
  have hcarry : (rlcByte s.regs.a).getLsbD 0 = s.regs.a.getLsbD 7 := getLsbD_rotLeft_zero _ _
  refine ⟨_, _, rfl, rfl, ?regs, ?flags⟩
  case regs => exact congrArg (fun v => { s.regs with a := v }) (rrcByte_rlcByte s.regs.a)
  case flags => exact congrArg (fun v => { s.flags with cy := v }) hcarry

/-- Settles O27: RLC turns the ring A, RAL the ring of CY and A, and the right rotates undo them. -/
theorem repeatedRotatesRestore : Obligations.RepeatedRotatesRestore := by
  refine fun s => ⟨?rlc, ?rrc, ?ral, ?rar, ⟨_, rfl, congrArg Host.Outcome.next (afterRar_afterRal s)⟩,
    exec_rlc_then_rrc s⟩
  case rlc =>
    exact execTimes_restores_regs (f := rlcByte) (carry := (·.getLsbD 7)) (fun _ => rfl) iterate_eight_rlcByte s
  case rrc =>
    exact execTimes_restores_regs (f := rrcByte) (carry := (·.getLsbD 0)) (fun _ => rfl) iterate_eight_rrcByte s
  case ral => rw [execTimes_eq_iterate (g := afterRal) (fun _ => rfl), iterate_nine_afterRal]
  case rar => rw [execTimes_eq_iterate (g := afterRar) (fun _ => rfl), iterate_nine_afterRar]

/-! ## Decimal adjust -/

theorem daaLow_iff (a : Byte) (f : Flags) : daaLow a f = true ↔ 9 < a.toNat % 16 ∨ f.ac = true := by
  rw [daaLow, Bool.or_eq_true, decide_eq_true_iff, loNibble]

theorem daaHigh_iff (a : Byte) (f : Flags) :
    daaHigh a f = true ↔ 9 < a.toNat / 16 ∨ f.cy = true ∨ (9 ≤ a.toNat / 16 ∧ 9 < a.toNat % 16) := by
  rw [daaHigh, Bool.or_eq_true, Bool.or_eq_true, Bool.and_eq_true, decide_eq_true_iff, decide_eq_true_iff,
    decide_eq_true_iff, or_assoc, loNibble, hiNibble]

theorem toNat_daaCorrection (a : Byte) (f : Flags) :
    (daaCorrection a f).toNat = (if daaLow a f then 0x06 else 0) + (if daaHigh a f then 0x60 else 0) := by
  rw [daaCorrection]
  split <;> split <;> rfl

/-- The 0x60 correction does not reach the low nibble. -/
theorem loNibble_daaCorrection (a : Byte) (f : Flags) :
    loNibble (daaCorrection a f) = if daaLow a f then 0x06 else 0 := by
  rw [loNibble, toNat_daaCorrection]
  split <;> split <;> rfl

theorem toNat_daaByte (a : Byte) (f : Flags) :
    (daaByte a f).toNat = (a.toNat + (if daaLow a f then 0x06 else 0) + if daaHigh a f then 0x60 else 0) % 256 := by
  rw [daaByte, BitVec.toNat_add, toNat_daaCorrection, Nat.add_assoc]

/-- The flags of `DAA` are those of the result, AC the carry out of the low nibble, CY kept or set. -/
theorem daaFlags_eq_flagsOf (a : Byte) (f : Flags) :
    daaFlags a f = flagsOf (daaByte a f) (decide (15 < a.toNat % 16 + if daaLow a f then 0x06 else 0))
      (daaHigh a f || f.cy) := by
  rw [daaFlags, zsp_eq_flagsOf, loNibble_daaCorrection]
  rfl

/-- CY is an input of the 0x60 correction, so it is 1 after `DAA` exactly when that correction is made. -/
theorem daaHigh_or_cy (a : Byte) (f : Flags) : (daaHigh a f || f.cy) = daaHigh a f := by
  cases hcy : f.cy with
  | false => exact Bool.or_false _
  | true => exact (Bool.or_true _).trans ((daaHigh_iff a f).2 (.inr (.inl hcy))).symm

theorem decide_ite_eq_sixty (b : Bool) : decide ((if b then 0x60 else 0) = 0x60) = b := by
  cases b <;> rfl

/-- Settles O28: the corrections of `daaByte` and `daaFlags` as numbers, their conditions in the spec's words. -/
theorem decimalAdjust : Obligations.DecimalAdjust := by
  refine fun s => ⟨encodes_of_encode rfl rfl, _, rfl, ?result, (keptBut_regSet .a _ s).flagsSet _, rfl, rfl⟩
  simp only [← daaLow_iff, ← daaHigh_iff]
  refine ⟨toNat_daaByte _ _, (daaFlags_eq_flagsOf _ _).trans ?_⟩
  rw [decide_ite_eq_sixty, Bool.or_comm]
  rfl

/-- The condition of the 0x60 correction, tested on A, is the one of the second step, tested on what the first step
leaves: its carry into the high nibble raises a 9 above 9, and its carry out of bit 7 is kept. -/
theorem daaHigh_eq_secondStep (a : Byte) (f : Flags) {six : Nat}
    (hsix : six = if 9 < a.toNat % 16 ∨ f.ac = true then 6 else 0) :
    daaHigh a f = (decide (9 < (a.toNat + six) % 256 / 16) || (f.cy || decide (255 < a.toNat + six))) := by
  have ha := a.isLt
  rw [Bool.eq_iff_iff, daaHigh_iff]
  simp only [Bool.or_eq_true, decide_eq_true_iff]
  cases f.cy with
  | true => simp
  | false =>
    simp only [Bool.false_eq_true, false_or]
    by_cases hlo : 9 < a.toNat % 16
    · rw [if_pos (.inl hlo)] at hsix
      omega
    · have hsix' : six ≤ 6 := by split at hsix <;> omega
      omega

/-- Settles O29: the single correction with its 0x60 condition read as the second step's. -/
theorem decimalAdjustEqualsTheTwoStepForm : Obligations.DecimalAdjustEqualsTheTwoStepForm := by
  intro x f six first carry sixty
  have hsix : (if daaLow x f then 6 else 0) = six := by simp only [daaLow_iff, six]
  have hsixty : daaHigh x f = sixty := daaHigh_eq_secondStep x f rfl
  have hflags := daaFlags_eq_flagsOf x f
  rw [hsix, daaHigh_or_cy, hsixty] at hflags
  refine ⟨?byte, congrArg Flags.cy hflags, congrArg Flags.ac hflags⟩
  rw [toNat_daaByte, hsix, hsixty, ← Nat.mod_add_mod]

end Sys2Proof.Machine
end

section
/-! PROOFS. The jumps, taken and not, and the jump to its own address (45_branch.md): O31, O32. -/

namespace Sys2Proof.Machine

open Sys2Proof.Safety

/-! ## Jumps -/

theorem exec_jmp (adr : Word) (s : State) : exec (.jmp adr) s = .next (pcSet adr s) := rfl

/-- An instruction whose meaning is one conditional jump sets PC when the condition holds, else changes nothing. -/
theorem jumpsWhen_of_exec {i : Instr} {taken : Bool} {adr : Word} {s : State}
    (h : exec i s = .next (jumpIf taken adr s)) : JumpsWhen taken i adr s :=
  h

/-- Settles O31: each meaning is one conditional jump; that of JMP and PCHL is one that is always taken. -/
theorem jumpInstructions : Obligations.JumpInstructions := fun _ _ s =>
  ⟨encodes_of_bytesF3 rfl rfl, jumpsWhen_of_exec (exec_jmp _ s),
    encodes_of_bytesF3 rfl rfl, jumpsWhen_of_exec rfl, encodes_of_bytesF3 rfl rfl, jumpsWhen_of_exec rfl,
    encodes_of_bytesF3 rfl rfl, jumpsWhen_of_exec rfl, encodes_of_bytesF3 rfl rfl, jumpsWhen_of_exec rfl,
    encodes_of_bytesF3 rfl rfl, jumpsWhen_of_exec rfl, encodes_of_bytesF3 rfl rfl, jumpsWhen_of_exec rfl,
    encodes_of_bytesF3 rfl rfl, jumpsWhen_of_exec rfl, encodes_of_bytesF3 rfl rfl, jumpsWhen_of_exec rfl,
    encodes_of_encode rfl rfl, jumpsWhen_of_exec rfl⟩

/-! ## A jump to its own address -/

@[simp] theorem pcSet_pcSet (v w : Word) (s : State) : pcSet v (pcSet w s) = pcSet v s := rfl

@[simp] theorem pcSet_pc_self (s : State) : pcSet s.pc s = s := rfl

/-- Without `HAS_CYCLE_COUNTER` counting changes nothing (10_state.md R31). -/
theorem countCycles_of_no_counter {s : State} (h : s.params.hasCycleCounter = false) (i : Instr) (f : Flags) :
    countCycles i f s = s := by
  simp [countCycles, h]

/-- Settles O32: a stopped block changes nothing; else the fetch moves PC past the JMP, and the JMP puts it back. -/
theorem jumpToItselfIsAFixedPoint : Obligations.JumpToItselfIsAFixedPoint := by
  intro lo hi s hpc hcyc hop hlo hhi
  obtain ⟨-, hstep⟩ | ⟨hrun, -⟩ := step_cases s
  · exact hstep
  · have hd : decode (bytesFrom s.pc s) = .ok (.jmp s.pc, []) := by
      rw [bytesFrom, hop, hlo, hhi, hpc]
      exact encodes_of_bytesF3 rfl rfl []
    rw [step_of_decode hrun hd, exec_jmp, pcSet_pcSet, pcSet_pc_self]
    exact congrArg Host.Outcome.next (countCycles_of_no_counter hcyc _ _)

end Sys2Proof.Machine
end

section
/-! PROOFS. What a push leaves and what a pop after it answers, and the calls, the restarts and the returns
(46_call_return_rst.md): O34, O36, O37, O35. -/

namespace Sys2Proof.Safety

open Sys2Proof.Machine

/-- What is kept stays kept when PC is then replaced. -/
theorem KeptBut.pcSet {ds : List Reg8} {ms : List Word} {s t : State} (h : KeptBut ds ms s t) (v : Word) :
    KeptBut ds ms s (pcSet v t) :=
  ⟨h.regs, h.mem, h.inPorts, h.outPorts, h.inte, h.halted, h.cyc, h.params⟩

/-- What is kept stays kept when SP is then replaced. -/
theorem KeptBut.spSet {ds : List Reg8} {ms : List Word} {s t : State} (h : KeptBut ds ms s t) (v : Word) :
    KeptBut ds ms s (spSet v t) :=
  ⟨h.regs, h.mem, h.inPorts, h.outPorts, h.inte, h.halted, h.cyc, h.params⟩

end Sys2Proof.Safety

namespace Sys2Proof.Machine

open Sys2Proof.Safety

/-! ## A push, and the pop that follows it -/

/-- A push changes no byte but the two below SP. -/
theorem keptBut_push16 (v : Word) (s : State) : KeptBut [] [s.sp - 1, s.sp - 2] s (push16 v s) :=
  ((keptBut_memWrite (s.sp - 1) _ s).trans (keptBut_memWrite (s.sp - 2) _ _)).spSet _

/-- A push puts the high byte at SP-1 and the low byte at SP-2, each byte protected on its own (10_state.md R18). -/
theorem stored_push16 (v : Word) (s : State) :
    Stored (s.sp - 1) (hiByte v) s (push16 v s) ∧ Stored (s.sp - 2) (loByte v) s (push16 v s) :=
  ⟨fun hwf => by simpa only [isProtected_iff] using (memRead_push16_same hwf v).1,
    fun hwf => by simpa only [isProtected_iff] using (memRead_push16_same hwf v).2⟩

/-- A pop after a push whose two bytes are writable answers the word pushed (10_state.md R18, R19). -/
theorem popValue_push16 {s : State} (hwf : Memory.wf s.mem = true)
    (hhigh : ¬ (s.params.romLo ≤ s.sp - 1 ∧ s.sp - 1 ≤ s.params.romHi))
    (hlow : ¬ (s.params.romLo ≤ s.sp - 2 ∧ s.sp - 2 ≤ s.params.romHi)) (v : Word) : popValue (push16 v s) = v := by
  obtain ⟨hstoredHigh, hstoredLow⟩ := stored_push16 v s
  have hsecond : s.sp - 2 + 1 = s.sp - 1 := by bv_omega
  rw [popValue, memRead16, push16_sp, hsecond, hstoredHigh hwf, hstoredLow hwf, if_neg hhigh, if_neg hlow,
    wordOf_hiByte_loByte]

/-! ## Calls and restarts -/

/-- An instruction whose meaning is a push and then a jump. -/
theorem pushes_of_exec {i : Instr} {v target : Word} {s : State} (h : exec i s = .next (pcSet target (push16 v s))) :
    Pushes i v target s :=
  ⟨_, h, rfl, rfl, (stored_push16 v s).1, (stored_push16 v s).2, (keptBut_push16 v s).pcSet target, rfl⟩

/-- An instruction whose meaning is one conditional call pushes PC and jumps when the condition holds, else changes
nothing. -/
theorem callsWhen_of_exec {i : Instr} {taken : Bool} {adr : Word} {s : State}
    (h : exec i s = .next (callIf taken adr s)) : CallsWhen taken i adr s := by
  cases taken with
  | false => exact h
  | true => exact pushes_of_exec h

/-- Settles O34: CALL is a push of PC and a jump, each conditional call one such call under its condition. -/
theorem callInstructions : Obligations.CallInstructions := fun _ _ _ =>
  ⟨encodes_of_bytesF3 rfl rfl, pushes_of_exec rfl,
    encodes_of_bytesF3 rfl rfl, callsWhen_of_exec rfl, encodes_of_bytesF3 rfl rfl, callsWhen_of_exec rfl,
    encodes_of_bytesF3 rfl rfl, callsWhen_of_exec rfl, encodes_of_bytesF3 rfl rfl, callsWhen_of_exec rfl,
    encodes_of_bytesF3 rfl rfl, callsWhen_of_exec rfl, encodes_of_bytesF3 rfl rfl, callsWhen_of_exec rfl,
    encodes_of_bytesF3 rfl rfl, callsWhen_of_exec rfl, encodes_of_bytesF3 rfl rfl, callsWhen_of_exec rfl⟩

/-- The opcode byte of `RST n` (46_call_return_rst.md R216). -/
theorem opOctal_rst : ∀ n : BitVec 3, opOctal 3 n 7 = .ofNat 8 (0xC7 + 8 * n.toNat) := by decide

theorem rstVector_eq (n : BitVec 3) : rstVector n = .ofNat 16 (8 * n.toNat) := by rw [rstVector, Nat.mul_comm]

/-- Settles O36: RST is a push of PC and a jump to its vector. -/
theorem restartCallsItsVector : Obligations.RestartCallsItsVector := fun n _ =>
  ⟨encodes_of_encode rfl (congrArg ([·]) (opOctal_rst n)), rstVector_eq n ▸ pushes_of_exec rfl⟩

/-! ## Returns -/

theorem exec_ret (s : State) : exec .ret s = .next (returnTo s) := rfl

/-- A return changes nothing but PC and SP. -/
theorem keptBut_returnTo (s : State) : KeptBut [] [] s (returnTo s) :=
  ((KeptBut.refl s).spSet _).pcSet _

/-- An instruction whose meaning is one conditional return pops PC when the condition holds, else changes nothing. -/
theorem returnsWhen_of_exec {i : Instr} {taken : Bool} {s : State} (h : exec i s = .next (returnIf taken s)) :
    ReturnsWhen taken i s :=
  h

/-- Settles O35: each meaning is one conditional return; that of RET is one that is always taken. -/
theorem returnInstructions : Obligations.ReturnInstructions := fun s =>
  ⟨encodes_of_encode rfl rfl, returnsWhen_of_exec (exec_ret s),
    encodes_of_encode rfl rfl, returnsWhen_of_exec rfl, encodes_of_encode rfl rfl, returnsWhen_of_exec rfl,
    encodes_of_encode rfl rfl, returnsWhen_of_exec rfl, encodes_of_encode rfl rfl, returnsWhen_of_exec rfl,
    encodes_of_encode rfl rfl, returnsWhen_of_exec rfl, encodes_of_encode rfl rfl, returnsWhen_of_exec rfl,
    encodes_of_encode rfl rfl, returnsWhen_of_exec rfl, encodes_of_encode rfl rfl, returnsWhen_of_exec rfl⟩

/-- Settles O37: the RET pops the PC that the CALL pushed, and raises SP by as much as the CALL lowered it. -/
theorem callThenReturnComesBack : Obligations.CallThenReturnComesBack := fun adr s hwf hhigh hlow =>
  have hpc : popValue (pcSet (adr + 1) (callTo adr s)) = s.pc := popValue_push16 hwf hhigh hlow s.pc
  have hsp : s.sp - 2 + 2 = s.sp := BitVec.sub_add_cancel s.sp 2
  have hcall : KeptBut [] [s.sp - 1, s.sp - 2] s (callTo adr s) := (keptBut_push16 s.pc s).pcSet adr
  ⟨callTo adr s, _, rfl, exec_ret _, hpc, hsp, rfl, (hcall.pcSet (adr + 1)).trans (keptBut_returnTo _)⟩

end Sys2Proof.Machine
end

section
/-! PROOFS. What a pop leaves, what writing back undoes, and the stack instructions (47_stack.md): O38, O40, O41, O42,
O39. -/

namespace Sys2Proof.Machine

open Sys2Proof.Safety

/-! ## Pushes -/

/-- Settles O38: each meaning is a push of one word, for PSW the word of A and the flag byte, and PC stays where it is. -/
theorem pushInstructions : Obligations.PushInstructions :=
  ⟨fun _ => ⟨encodes_of_encode rfl rfl, pushes_of_exec rfl⟩, fun _ => ⟨encodes_of_encode rfl rfl, pushes_of_exec rfl⟩,
    fun _ => ⟨encodes_of_encode rfl rfl, pushes_of_exec rfl⟩, fun _ => ⟨encodes_of_encode rfl rfl, pushes_of_exec rfl⟩⟩

/-! ## Pops -/

/-- A pop answers the byte at SP+1 as its high byte (10_state.md R19). -/
theorem hiByte_popValue (s : State) : hiByte (popValue s) = memRead (s.sp + 1) s := hiByte_wordOf _ _

/-- A pop answers the byte at SP as its low byte (10_state.md R19). -/
theorem loByte_popValue (s : State) : loByte (popValue s) = memRead s.sp s := loByte_wordOf _ _

/-- Dropping the popped word changes nothing but SP. -/
theorem keptBut_popDrop (s : State) : KeptBut [] [] s (popDrop s) := (KeptBut.refl s).spSet _

theorem exec_pop (p : Pair) (s : State) : exec (.pop p) s = .next (pairSet p (popValue s) (popDrop s)) := rfl

theorem exec_popPsw (s : State) :
    exec .popPsw s
      = .next (flagsSet (unpackPsw (memRead s.sp s)) (accSet (memRead (s.sp + 1) s) (popDrop s))) := by
  rw [← hiByte_popValue, ← loByte_popValue]
  rfl

/-- Settles O39: POP is one write of the pair with the word popped, POP PSW one write of A and one of the flags. -/
theorem popInstructions : Obligations.PopInstructions := by
  refine ⟨fun p s => ⟨?pop, _, exec_pop p s, pairGet_pairSet_same p _ _, rfl,
      (keptBut_popDrop s).trans (keptBut_pairSpSet (.pair p) _ _), rfl, rfl⟩,
    fun s => ⟨encodes_of_encode rfl rfl, _, exec_popPsw s, rfl, rfl, rfl,
      ((keptBut_popDrop s).trans (keptBut_regSet .a _ _)).flagsSet _, rfl⟩⟩
  case pop => exact encodes_of_encode rfl (by cases p <;> rfl)

/-! ## Reading back what was stored, and writing back what was read -/

/-- Writing back what a pair reads as changes nothing. -/
theorem pairSet_pairGet (p : Pair) (s : State) : pairSet p (pairGet p s) s = s := by
  rw [pairGet, pairSet_wordOf]
  cases p <;> rfl

/-- The second of two writes of a pair alone counts. -/
theorem pairSet_pairSet (p : Pair) (v w : Word) (s : State) : pairSet p v (pairSet p w s) = pairSet p v s := by
  cases p <;> rfl

/-- Canonical memories that read alike at every address are equal. -/
theorem mem_eq_of_memRead_eq {s t : State} (hs : Memory.wf s.mem = true) (ht : Memory.wf t.mem = true)
    (h : ∀ adr, memRead adr t = memRead adr s) : t.mem = s.mem :=
  eq_of_cellRead_eq ht hs fun k hk => by
    simpa only [memRead, BitVec.toNat_ofNat, Nat.mod_eq_of_lt hk] using h (.ofNat 16 k)

/-- Storing back the two bytes that a two-byte store overwrote undoes the store, protected or not. -/
theorem memWrite16_memRead16_memWrite16 {s : State} (hwf : Memory.wf s.mem = true) (adr v : Word) :
    memWrite16 adr (memRead16 adr s) (memWrite16 adr v s) = s := by
  have hwf' := memWrite16_wf hwf adr v
  have hmem : (memWrite16 adr (memRead16 adr s) (memWrite16 adr v s)).mem = s.mem := by
    refine mem_eq_of_memRead_eq hwf (memWrite16_wf hwf' _ _) fun j => ?_
    obtain ⟨hlow, hhigh⟩ := memRead_memWrite16_same hwf adr v
    obtain ⟨hlow', hhigh'⟩ := memRead_memWrite16_same hwf' adr (memRead16 adr s)
    by_cases h0 : j = adr
    · subst h0
      rw [hlow', hlow, memRead16, loByte_wordOf, memWrite16_params]
      split <;> rfl
    by_cases h1 : j = adr + 1
    · subst h1
      rw [hhigh', hhigh, memRead16, hiByte_wordOf, memWrite16_params]
      split <;> rfl
    rw [memRead_memWrite16_ne h0 h1, memRead_memWrite16_ne h0 h1]
  exact congrArg (fun m => { s with mem := m }) hmem

/-- A two-byte store of a word given by its bytes. -/
theorem stored_memWrite16_wordOf (adr : Word) (hi lo : Byte) (s : State) :
    Stored adr lo s (memWrite16 adr (wordOf hi lo) s) ∧ Stored (adr + 1) hi s (memWrite16 adr (wordOf hi lo) s) := by
  simpa only [loByte_wordOf, hiByte_wordOf] using stored_memWrite16 adr (wordOf hi lo) s

/-- A two-byte store outside the protected range reads back as the word stored. -/
theorem memRead16_memWrite16 {s : State} (hwf : Memory.wf s.mem = true) {adr : Word}
    (hlow : ¬ (s.params.romLo ≤ adr ∧ adr ≤ s.params.romHi))
    (hhigh : ¬ (s.params.romLo ≤ adr + 1 ∧ adr + 1 ≤ s.params.romHi)) (v : Word) :
    memRead16 adr (memWrite16 adr v s) = v := by
  obtain ⟨hstoredLow, hstoredHigh⟩ := stored_memWrite16 adr v s
  rw [memRead16, hstoredLow hwf, hstoredHigh hwf, if_neg hlow, if_neg hhigh, wordOf_hiByte_loByte]

/-! ## A pop after a push -/

/-- Settles O40: the pop answers the word pushed, and writing back what was read changes nothing. -/
theorem pushThenPopRestores : Obligations.PushThenPopRestores := fun p s hwf hhigh hlow => by
  have hsp : s.sp - 2 + 2 = s.sp := BitVec.sub_add_cancel s.sp 2
  have hpop (v : Word) : popValue (push16 v s) = v := popValue_push16 hwf hhigh hlow v
  refine ⟨⟨push16 (pairGet p s) s, _, rfl, exec_pop p _, ?pairRegs, hsp, rfl⟩,
    ⟨push16 (wordOf s.regs.a (packPsw s.flags)) s, _, rfl, exec_popPsw _, ?pswRegs, hsp, ?pswFlags⟩⟩
  case pairRegs =>
    show (pairSet p _ s).regs = s.regs
    rw [hpop, pairSet_pairGet]
  case pswRegs => rw [← hiByte_popValue, hpop, hiByte_wordOf]; rfl
  case pswFlags => rw [← loByte_popValue, hpop, loByte_wordOf]; exact unpackPsw_packPsw s.flags

/-! ## XTHL and SPHL -/

theorem exec_xthl (s : State) :
    exec .xthl s = .next (pairSet .hl (memRead16 s.sp s) (memWrite16 s.sp (hl s) s)) := rfl

/-- XTHL just after a write of HL stores the word written, and what it loads into HL is not changed by that write. -/
theorem exec_xthl_pairSet (v : Word) (s : State) :
    exec .xthl (pairSet .hl v s) = .next (pairSet .hl (memRead16 s.sp s) (memWrite16 s.sp v s)) := by
  rw [exec_xthl, hl, pairGet_pairSet_same]
  exact congrArg Host.Outcome.next (pairSet_pairSet .hl _ v (memWrite16 s.sp v s))

/-- Settles O41: XTHL is a two-byte store of HL at SP and a write of HL with the word read before it. -/
theorem xthlAndSphl : Obligations.XthlAndSphl := fun s =>
  have hstored : Stored s.sp s.regs.l s (memWrite16 s.sp (hl s) s)
      ∧ Stored (s.sp + 1) s.regs.h s (memWrite16 s.sp (hl s) s) := stored_memWrite16_wordOf s.sp s.regs.h s.regs.l s
  ⟨⟨encodes_of_encode rfl rfl, _, exec_xthl s, loByte_wordOf _ _, hiByte_wordOf _ _, hstored.1, hstored.2,
    (keptBut_memWrite16 s.sp (hl s) s).trans (keptBut_pairSet .hl _ _), rfl, rfl, rfl⟩, encodes_of_encode rfl rfl, rfl⟩

/-- Settles O42: the second XTHL reads back the HL the first one stored, and stores back the word the first one read. -/
theorem xthlTwiceRestores : Obligations.XthlTwiceRestores := fun s hwf hlow hhigh => by
  refine ⟨_, exec_xthl s, ?_⟩
  rw [exec_xthl_pairSet, memWrite16_sp, memRead16_memWrite16 hwf hlow hhigh, memWrite16_memRead16_memWrite16 hwf, hl,
    pairSet_pairGet]

end Sys2Proof.Machine
end

section
/-! PROOFS. Every step answers a next state, and INTE decides nothing but itself (60_exceptions.md): O3, O52. -/

namespace Sys2Proof.Machine

open Sys2Proof.Safety

/-- Settles O3: a stopped step answers the same state, every other one the counted state its instruction leaves. -/
theorem stepAlwaysReturnsOk : Obligations.StepAlwaysReturnsOk := fun s => by
  obtain ⟨-, hstep⟩ | ⟨-, i, u, t, -, -, hstep⟩ := step_cases s <;> exact ⟨_, hstep⟩

/-! ## INTE -/

theorem sameButInte_iff {s t : State} : SameButInte s t ↔ ∃ b, t = inteSet b s :=
  ⟨fun h => ⟨t.inte, h⟩, by rintro ⟨b, rfl⟩; rfl⟩

/-- INTE after an instruction that found it `b` (10_state.md R28). -/
def inteAfter (i : Instr) (b : Bool) : Bool :=
  match i with
  | .ei => true
  | .di => false
  | _ => b

/-- A conditional update commutes with a write of INTE when the update does. -/
theorem ite_inteSet {f : State → State} {b : Bool} (hf : ∀ s, f (inteSet b s) = inteSet b (f s)) (taken : Bool)
    (s : State) : (if taken then f (inteSet b s) else inteSet b s) = inteSet b (if taken then f s else s) := by
  cases taken with
  | false => rfl
  | true => exact hf s

theorem pairSpSet_inteSet (p : PairSp) (v : Word) (b : Bool) (s : State) :
    pairSpSet p v (inteSet b s) = inteSet b (pairSpSet p v s) := by cases p <;> rfl

theorem callTo_inteSet (adr : Word) (b : Bool) (s : State) :
    callTo adr (inteSet b s) = inteSet b (callTo adr s) := rfl

/-- No instruction reads INTE: what it does to a state with another INTE differs in INTE alone. -/
theorem exec_inteSet (i : Instr) (b : Bool) (s : State) :
    exec i (inteSet b s) = mapNext (inteSet (inteAfter i b)) (exec i s) := by
  cases i with
  | lxi p | inx p | dcx p => exact congrArg Host.Outcome.next (pairSpSet_inteSet p _ b s)
  | jnz adr | jz adr | jnc adr | jc adr | jpo adr | jpe adr | jp adr | jm adr =>
    exact congrArg Host.Outcome.next (ite_inteSet (f := pcSet adr) (fun _ => rfl) _ s)
  | cnz adr | cz adr | cnc adr | cc adr | cpo adr | cpe adr | cp adr | cm adr =>
    exact congrArg Host.Outcome.next (ite_inteSet (callTo_inteSet adr b) _ s)
  | rnz | rz | rnc | rc | rpo | rpe | rp | rm =>
    exact congrArg Host.Outcome.next (ite_inteSet (f := returnTo) (fun _ => rfl) _ s)
  | _ => rfl

/-- The fetch reads memory and PC alone: with both the same it answers the same instruction and moves PC alike. -/
theorem fetchInstr_congr {s t u : State} {i : Instr} (h : fetchInstr s = .ok (i, u)) (hmem : t.mem = s.mem)
    (hpc : t.pc = s.pc) : fetchInstr t = .ok (i, pcSet u.pc t) := by
  obtain ⟨e, he⟩ := dispatch_mapped (memRead s.pc s)
  have hbyte (adr : Word) (v : Word) : memRead adr (pcSet v t) = memRead adr (pcSet v s) := memRead_congr hmem adr
  have he' : dispatch (memRead t.pc t) = some e := by rw [hpc, memRead_congr hmem, he]
  simp only [fetchInstr, fetch8, fetch16, he, he'] at h ⊢
  cases e <;> cases h <;> simp [hbyte, hpc]

/-- Settles O52: fetching does not read INTE, executing commutes with replacing it, and counting keeps it. -/
theorem inteHasNoEffectOnExecution : Obligations.InteHasNoEffectOnExecution := by
  intro s t hst
  obtain ⟨b, rfl⟩ := sameButInte_iff.mp hst
  obtain ⟨hs, hstep⟩ | ⟨hs, i, u, v, hf, hv, hstep⟩ := step_cases s
  · exact ⟨s, inteSet b s, hstep, if_pos hs, hst⟩
  · have hf' : fetchInstr (inteSet b s) = .ok (i, inteSet b u) := by
      rw [fetchInstr_congr (t := inteSet b s) hf rfl rfl, fetchInstr_state hf]
      rfl
    have hv' : exec i (inteSet b u) = .next (inteSet (inteAfter i b) v) := by rw [exec_inteSet, hv]; rfl
    exact ⟨_, _, hstep, step_of_exec (s := inteSet b s) hs hf' hv', rfl⟩

end Sys2Proof.Machine
end

section
/-! PROOFS. The invariant: every instruction, every step, every call of the host keeps it (10_state.md section 6): O54,
O55. -/

namespace Sys2Proof.Machine

open Sys2Proof.Safety

/-- The invariant's clauses, the two of unused state as implications. -/
theorem inv_iff (s : State) :
    inv s = true ↔ Memory.wf s.mem = true ∧ PortBank.wf s.inPorts = true ∧ PortBank.wf s.outPorts = true
      ∧ (s.params.hltMode ≠ .halt → s.halted = false) ∧ (s.params.hasCycleCounter = false → s.cyc = 0) := by
  simp only [inv, Bool.and_eq_true, Bool.or_eq_true, decide_eq_true_iff, Bool.not_eq_true', and_assoc,
    or_iff_not_imp_left, Bool.not_eq_true]

/-! ## Instructions -/

theorem callIf_wf {s : State} (h : Memory.wf s.mem = true) (taken : Bool) (adr : Word) :
    Memory.wf (callIf taken adr s).mem = true := by
  obtain ⟨-, hc⟩ | ⟨-, hc⟩ := callIf_cases taken adr s <;> rw [hc]
  · exact push16_wf h s.pc
  · exact h

/-- An instruction stores nothing, or by a store, a two-byte store or a push: memory stays in canonical form. -/
theorem memory_wf_of_exec {i : Instr} {s t : State} (h : Memory.wf s.mem = true) (ht : exec i s = .next t) :
    Memory.wf t.mem = true := by
  by_cases hw : (writesOf i).mem = false
  · rw [(keepsUnlisted_of_exec ht).mem hw]
    exact h
  cases i with
  | movMR | mviM | sta | stax | inrM | dcrM => cases ht; exact memWrite_wf h _ _
  | shld | xthl => cases ht; exact memWrite16_wf h _ _
  | push | pushPsw | call | rst | undocCall => cases ht; exact push16_wf h _
  | cnz | cz | cnc | cc | cpo | cpe | cp | cm => cases ht; exact callIf_wf h _ _
  | _ => exact absurd rfl hw

/-- OUT alone writes the port banks, by a port write. -/
theorem portBanks_wf_of_exec {i : Instr} {s t : State} (hin : PortBank.wf s.inPorts = true)
    (hout : PortBank.wf s.outPorts = true) (ht : exec i s = .next t) :
    PortBank.wf t.inPorts = true ∧ PortBank.wf t.outPorts = true := by
  by_cases hi : ∃ n, i = .out n
  · obtain ⟨n, rfl⟩ := hi
    cases ht
    exact portWrite_wf hin hout n s.regs.a
  · obtain ⟨hin', hout'⟩ := (keepsUnlisted_of_exec ht).ports (not_exists.mp hi)
    rw [hin', hout']
    exact ⟨hin, hout⟩

/-- HLT alone writes the halt latch, and sets it under `HLT_MODE = halt` alone (10_state.md R30). -/
theorem halted_of_exec {i : Instr} {s t : State} (hmode : s.params.hltMode ≠ .halt) (ht : exec i s = .next t) :
    t.halted = s.halted := by
  by_cases hi : i = .hlt
  · subst hi
    cases ht
    simp [hmode]
  · exact (keepsUnlisted_of_exec ht).halted hi

theorem inv_of_exec {i : Instr} {s t : State} (hs : inv s = true) (ht : exec i s = .next t) : inv t = true := by
  rw [inv_iff] at hs ⊢
  obtain ⟨hmem, hin, hout, hlatch, hcyc⟩ := hs
  have hkeeps := keepsUnlisted_of_exec ht
  obtain ⟨hin', hout'⟩ := portBanks_wf_of_exec hin hout ht
  rw [hkeeps.params, hkeeps.cyc]
  exact ⟨memory_wf_of_exec hmem ht, hin', hout', fun hmode => (halted_of_exec hmode ht).trans (hlatch hmode), hcyc⟩

/-! ## Steps -/

/-- Counting writes the counter only where the block has one (10_state.md R31). -/
theorem inv_countCycles (i : Instr) (f : Flags) {s : State} (hs : inv s = true) : inv (countCycles i f s) = true := by
  rw [inv_iff] at hs ⊢
  obtain ⟨hmem, hin, hout, hlatch, hcyc⟩ := hs
  refine ⟨hmem, hin, hout, hlatch, fun hno => ?_⟩
  rw [countCycles_params] at hno
  rw [countCycles_of_no_counter hno]
  exact hcyc hno

/-- Settles O54: the fetch moves PC alone, and the instruction and the count each keep the invariant. -/
theorem stepKeepsTheStateWellFormed : Obligations.StepKeepsTheStateWellFormed := by
  intro s t hs ht
  obtain ⟨-, hstep⟩ | ⟨-, i, u, v, hf, hv, hstep⟩ := step_cases s <;> cases ht.symm.trans hstep
  · exact hs
  · have hu : inv u = true := by
      rw [fetchInstr_state hf]
      exact hs
    exact inv_countCycles i s.flags (inv_of_exec hu hv)

/-! ## Calls of the host -/

theorem inv_created (p : Config.Params) {m : Memory} {x y : PortBank} (hm : Memory.wf m = true)
    (hx : PortBank.wf x = true) (hy : PortBank.wf y = true) : inv (State.created p m x y) = true :=
  (inv_iff _).mpr ⟨hm, hx, hy, fun _ => rfl, fun _ => rfl⟩

theorem inv_hostLoad {s t : State} {bytes : List Byte} {origin : Word} (hs : inv s = true)
    (ht : hostLoad bytes origin s = some t) : inv t = true := by
  rw [inv_iff] at hs
  obtain ⟨hmem, hrest⟩ := hs
  unfold hostLoad at ht
  split at ht <;> cases ht
  exact (inv_iff _).mpr ⟨Memory.wf_loadBytes bytes origin hmem, hrest⟩

theorem inv_hostStep {s : State} (hs : inv s = true) : inv (hostStep s) = true := by
  unfold hostStep
  split
  next t ht => exact stepKeepsTheStateWellFormed s t hs ht
  · exact hs
  · exact hs

theorem inv_hostCall (x : HostCall) {s : State} (hs : inv s = true) : inv (hostCall x s) = true := by
  obtain ⟨hmem, hin, hout, hrest⟩ := (inv_iff s).mp hs
  cases x with
  | reset => exact inv_created s.params hmem hin hout
  | load bytes origin =>
    rw [hostCall]
    cases hload : hostLoad bytes origin s with
    | none => exact hs
    | some t => exact inv_hostLoad hs hload
  | step => exact inv_hostStep hs
  | writePort n v =>
    obtain ⟨hin', hout'⟩ := portWrite_wf hin hout (.ofNat 8 n) (.ofNat 8 v)
    exact (inv_iff _).mpr ⟨hmem, hin', hout', hrest⟩
  | setInput n v =>
    exact (inv_iff _).mpr ⟨hmem, PortBank.wf_cellWrite hin (Nat.mod_lt n (by decide)) _, hout, hrest⟩

theorem inv_hostRun (calls : List HostCall) {s : State} (hs : inv s = true) : inv (hostRun calls s) = true := by
  induction calls generalizing s with
  | nil => exact hs
  | cons x rest ih => exact ih (inv_hostCall x hs)

/-- Settles O55: a created block meets the invariant and each call keeps it. -/
theorem hostRunsKeepTheStateWellFormed : Obligations.HostRunsKeepTheStateWellFormed :=
  ⟨inv_created Config.bareCore rfl rfl rfl, fun p _ _ _ => inv_created p, fun calls _ => inv_hostRun calls⟩

end Sys2Proof.Machine
end

section
/-! PROOFS. The host's load and port calls (70_reset_and_hazards.md section 1): O57, O59. -/

namespace Sys2Proof.Machine

open Sys2Proof.Safety

/-! ## load -/

theorem add_one_add_ofNat (adr : Word) (k : Nat) : adr + 1 + BitVec.ofNat 16 k = adr + BitVec.ofNat 16 (k + 1) := by
  rw [BitVec.ofNat_add, BitVec.add_comm (BitVec.ofNat 16 k), ← BitVec.add_assoc]
  rfl

/-- A load leaves every byte outside the addresses of its image alone. -/
theorem cellRead_loadBytes_ne {bytes : List Byte} {origin adr : Word} (m : Memory)
    (h : ∀ k, k < bytes.length → adr ≠ origin + BitVec.ofNat 16 k) :
    cellRead (loadBytes bytes origin m) adr.toNat = cellRead m adr.toNat := by
  induction bytes generalizing origin m with
  | nil => rfl
  | cons v rest ih =>
    have hhead : adr ≠ origin := by simpa using h 0 (Nat.succ_pos _)
    have htail : ∀ k, k < rest.length → adr ≠ origin + 1 + BitVec.ofNat 16 k := fun k hk => by
      rw [add_one_add_ofNat]
      exact h (k + 1) (Nat.succ_lt_succ hk)
    rw [loadBytes, ih _ htail]
    exact cellRead_cellWrite_ne m v fun e => hhead (BitVec.eq_of_toNat_eq e)

/-- An image of at most 65536 bytes does not reach its own addresses twice: byte `k` is read back `k` addresses above
the origin (20_memory.md R46). -/
theorem cellRead_loadBytes_same {bytes : List Byte} (origin : Word) {m : Memory} (hwf : Memory.wf m = true)
    (hlen : bytes.length ≤ 65536) {k : Nat} (hk : k < bytes.length) :
    cellRead (loadBytes bytes origin m) (origin + BitVec.ofNat 16 k).toNat = bytes[k] := by
  induction bytes generalizing origin m k with
  | nil => exact absurd hk (Nat.not_lt_zero k)
  | cons v rest ih =>
    rw [List.length_cons] at hlen hk
    cases k with
    | zero =>
      have hrest : ∀ j, j < rest.length → origin ≠ origin + 1 + BitVec.ofNat 16 j := fun j hj => by bv_omega
      rw [BitVec.add_zero, loadBytes, cellRead_loadBytes_ne _ hrest]
      exact cellRead_cellWrite_same hwf _ v
    | succ k =>
      rw [← add_one_add_ofNat]
      exact ih (origin + 1) (Memory.wf_cellWrite hwf origin v) (by omega) (by omega)

/-- Settles O57: an image that fits is read back by `cellRead_loadBytes_same`, a longer one is refused. -/
theorem loadPlacesTheImage : Obligations.LoadPlacesTheImage := by
  refine ⟨fun bytes origin s hwf hlen => ⟨_, if_pos hlen, fun k hk => ?image, fun adr hadr => ?others, rfl⟩,
    fun bytes origin s hlong => ?refused⟩
  case image => exact cellRead_loadBytes_same origin hwf hlen hk
  case others => exact cellRead_loadBytes_ne s.mem hadr
  case refused =>
    have hnone : hostLoad bytes origin s = none := if_neg hlong.not_ge
    exact ⟨hnone, by rw [hostCall, hnone, Option.getD_none]⟩

/-! ## read_port, write_port, set_input -/

/-- Reducing a host's number mod 256 first gives the same byte (70_reset_and_hazards.md R285). -/
theorem ofNat_mod_byte (n : Nat) : BitVec.ofNat 8 (n % 256) = BitVec.ofNat 8 n :=
  BitVec.eq_of_toNat_eq (by simp)

/-- Settles O59: a port call is one cell or port write, at the port and of the byte that the numbers reduce to. -/
theorem portCallsOfTheHost : Obligations.PortCallsOfTheHost := by
  intro n v s
  simp only [ofNat_mod_byte]
  have hne {k : Byte} (hk : k.toNat ≠ n % 256) : k ≠ BitVec.ofNat 8 n := by
    rintro rfl
    exact hk (BitVec.toNat_ofNat n 8)
  refine ⟨rfl, fun hwf => ?readBack, fun k hk => ?otherPorts, rfl,
    fun hwf => outPortRead_portWrite_same hwf _ _, fun hwf => ?loopback,
    fun k hk => ⟨portRead_portWrite_ne (hne hk) _ s, outPortRead_portWrite_ne (hne hk) _ s⟩, rfl⟩
  case readBack => exact cellRead_cellWrite_same hwf (n % 256) _
  case otherPorts => exact cellRead_cellWrite_ne s.inPorts _ hk
  case loopback => exact portRead_portWrite_same hwf (BitVec.ofNat 8 n) _

end Sys2Proof.Machine
end

section
/-! PROOFS. Ports, machine control and the undocumented opcodes (48_io_control.md, 49_undocumented.md), and the words
written out from the opcode map: O45, O46, O47, O7. -/

namespace Sys2Proof.Machine

open Sys2Proof.Safety

/-! ## Ports -/

theorem exec_inp (n : Byte) (s : State) : exec (.inp n) s = .next (regSet .a (portRead n s) s) := rfl

theorem exec_out (n : Byte) (s : State) : exec (.out n) s = .next (portWrite n s.regs.a s) := rfl

/-- Settles O45: IN is one write of A and OUT one port write; IN after OUT reads what that port write left. -/
theorem inAndOut : Obligations.InAndOut := by
  refine ⟨fun n s => ⟨encodes_of_encode rfl rfl, loads_of_exec (exec_inp n s)⟩,
    fun n s => ⟨encodes_of_encode rfl rfl, _, exec_out n s, fun hwf => outPortRead_portWrite_same hwf n _,
      fun hwf => portRead_portWrite_same hwf n _,
      fun k hk => ⟨portRead_portWrite_ne hk _ s, outPortRead_portWrite_ne hk _ s⟩,
      rfl, rfl, ⟨rfl, rfl, rfl⟩, rfl, rfl, rfl, rfl⟩,
    fun n s hwf hloop => ⟨_, exec_out n s, fun x => ⟨_, exec_inp n _, ?readBack⟩⟩⟩
  case readBack => exact (portRead_portWrite_same hwf n s.regs.a).trans (if_pos hloop)

/-! ## Machine control -/

theorem exec_hlt (s : State) : exec .hlt s = .next (haltLatch s) := rfl

theorem haltLatch_of_halt {s : State} (h : s.params.hltMode = .halt) : haltLatch s = { s with halted := true } := by
  simp [haltLatch, h]

theorem haltLatch_of_nop {s : State} (h : s.params.hltMode = .nop) : haltLatch s = s := by
  simp [haltLatch, h]

/-- Settles O46: each meaning is the write of one bit or nothing, for HLT by `HLT_MODE`. -/
theorem machineControlInstructions : Obligations.MachineControlInstructions := by
  refine fun s => ⟨⟨encodes_of_encode rfl rfl, rfl⟩,
    ⟨encodes_of_encode rfl rfl, fun hmode => ?halt, fun hmode => ?nop⟩,
    ⟨encodes_of_encode rfl rfl, rfl⟩, ⟨encodes_of_encode rfl rfl, rfl⟩⟩
  case halt => rw [exec_hlt, haltLatch_of_halt hmode]
  case nop => rw [exec_hlt, haltLatch_of_nop hmode]

/-! ## Undocumented opcodes -/

/-- The opcode byte of `*NOP` (49_undocumented.md R245). -/
theorem opOctal_undocNop : ∀ n : BitVec 3, opOctal 0 n 0 = .ofNat 8 (8 * n.toNat) := by decide

/-- The opcode byte of `*CALL` (49_undocumented.md R248). -/
theorem opPaired_undocCall : ∀ x : BitVec 2, opPaired 3 x 13 = .ofNat 8 (0xCD + 16 * x.toNat) := by decide

/-- Settles O47: each meaning is that of the documented instruction, the field of the opcode not being zero. -/
theorem undocumentedOpcodes : Obligations.UndocumentedOpcodes := by
  refine ⟨fun n s hn => ⟨?undocNop, rfl⟩, fun lo hi s => ⟨encodes_of_bytesF3 rfl rfl, rfl⟩,
    fun s => ⟨encodes_of_encode rfl rfl, returnsWhen_of_exec (taken := true) rfl⟩,
    fun x lo hi s hx => ⟨?undocCall, pushes_of_exec rfl⟩⟩
  case undocNop => exact encodes_of_encode (bne_iff_ne.mpr hn) (congrArg ([·]) (opOctal_undocNop n))
  case undocCall =>
    rw [← opPaired_undocCall]
    exact encodes_of_bytesF3 (bne_iff_ne.mpr hx) rfl

/-! ## Words written out from the opcode map -/

/-- Settles O7: each word is the encoding of its instruction, and O4 decodes it. -/
theorem decodesWordsWrittenFromTheOpcodeMap : Obligations.DecodesWordsWrittenFromTheOpcodeMap := by
  unfold Obligations.DecodesWordsWrittenFromTheOpcodeMap
  and_intros
  all_goals exact encodes_of_encode rfl rfl

end Sys2Proof.Machine
end

section
/-! PROOFS. Packed decimal addition (95_test_vectors.md section 2.5): O30. -/

namespace Sys2Proof.Machine

open Sys2Proof.Safety

theorem toNat_bcd {n : Nat} (hn : n < 100) : (bcd n).toNat = n / 10 * 16 + n % 10 := by
  rw [bcd, BitVec.toNat_ofNat]
  omega

/-- The last two digits of a sum of digit sums: the low digit of `lo`, and that of `hi` with the carry out of `lo`. -/
theorem toNat_bcd_mod (hi lo : Nat) : (bcd ((hi * 10 + lo) % 100)).toNat = (hi + lo / 10) % 10 * 16 + lo % 10 := by
  rw [toNat_bcd (Nat.mod_lt _ (by decide))]
  omega

/-- `v` and `f` are A and the flags after the binary addition of two packed decimals and a carry: `hi` is the sum of
their high digits, `lo` that of their low digits and the carry. -/
structure PackedSum (hi lo : Nat) (v : Byte) (f : Flags) : Prop where
  hi_le : hi ≤ 18
  lo_le : lo ≤ 19
  byte : v.toNat = (hi * 16 + lo) % 256
  ac : f.ac = true ↔ 15 < lo
  cy : f.cy = true ↔ 255 < hi * 16 + lo

theorem packedSum_of_addsToA {x y : Nat} {cin : Bool} {i : Instr} {s : State} (hx : x < 100) (hy : y < 100)
    (ha : s.regs.a = bcd x) (h : AddsToA i (bcd y) cin s) :
    ∃ t, exec i s = .next t ∧ PackedSum (x / 10 + y / 10) (x % 10 + y % 10 + cin.toNat) t.regs.a t.flags := by
  obtain ⟨t, ht, hbyte, hflags, -⟩ := h
  have hcin := cin.toNat_le
  rw [ha, toNat_bcd hx, toNat_bcd hy] at hbyte hflags
  refine ⟨t, ht, by omega, by omega, by omega, ?ac, ?cy⟩
  all_goals
    rw [hflags, flagsOf, decide_eq_true_iff]
    omega

/-- The 0x06 correction is made exactly when the low digits carry. -/
theorem PackedSum.daaLow_iff_ten_le {hi lo : Nat} {v : Byte} {f : Flags} (h : PackedSum hi lo v f) :
    daaLow v f = true ↔ 10 ≤ lo := by
  have hlo := h.lo_le
  rw [daaLow_iff, h.ac, h.byte]
  omega

/-- The 0x60 correction is made exactly when the numbers carry. -/
theorem PackedSum.daaHigh_iff_hundred_le {hi lo : Nat} {v : Byte} {f : Flags} (h : PackedSum hi lo v f) :
    daaHigh v f = true ↔ 100 ≤ hi * 10 + lo := by
  have hhi := h.hi_le
  have hlo := h.lo_le
  rw [daaHigh_iff, h.cy, h.byte]
  omega

/-- The corrected byte holds the last two digits of the sum. -/
theorem PackedSum.daaByte_eq {hi lo : Nat} {v : Byte} {f : Flags} (h : PackedSum hi lo v f) :
    daaByte v f = bcd ((hi * 10 + lo) % 100) := by
  have hhi := h.hi_le
  have hlo := h.lo_le
  apply BitVec.eq_of_toNat_eq
  rw [toNat_daaByte, toNat_bcd_mod, h.byte]
  simp only [h.daaLow_iff_ten_le, h.daaHigh_iff_hundred_le]
  split <;> split <;> omega

/-- Settles O30: ACI leaves the binary sum of the packed digits, and DAA corrects each digit that carried. -/
theorem decimalAdditionIsCorrect : Obligations.DecimalAdditionIsCorrect := by
  intro x y s hx hy ha
  have hdigits : x + y + s.flags.cy.toNat = (x / 10 + y / 10) * 10 + (x % 10 + y % 10 + s.flags.cy.toNat) := by omega
  obtain ⟨t, ht, hsum⟩ := packedSum_of_addsToA hx hy ha (addsToA_of_exec (i := .aci (bcd y)) rfl)
  rw [hdigits]
  refine ⟨t, _, ht, rfl, hsum.daaByte_eq, ?carry⟩
  rw [flagsSet_flags, daaFlags_eq_flagsOf, flagsOf, daaHigh_or_cy, Bool.eq_iff_iff, decide_eq_true_iff]
  exact hsum.daaHigh_iff_hundred_le

end Sys2Proof.Machine
end
